-- ==== Sys2Proof/Word.lean ====
section
/-! DEFINITION. The word type of a HERA CPU and the register numbers (rules R5, R7, R20, R22). -/

namespace Sys2Proof

/-- A 16-bit quantity: a register, a data cell, an instruction word, the program counter (R5, R7). -/
abbrev Word := BitVec 16

/-- A register number, 0 to 15 (R20): one bank, no per-mode copies. -/
abbrev Reg := Fin 16

/-- R11, the assembler's temporary register (R22, R23). -/
abbrev Reg.rt : Reg := 11

/-- R12, the alternate frame pointer by convention (R22). -/
abbrev Reg.fpAlt : Reg := 12

/-- R13, the branch or return address by convention (R22). -/
abbrev Reg.pcRet : Reg := 13

/-- R14, the frame pointer: the one register besides R0 that hardware singles out (R22, R23). -/
abbrev Reg.fp : Reg := 14

/-- R15, the stack pointer by convention (R22). -/
abbrev Reg.sp : Reg := 15

end Sys2Proof
end

