-- ==== Sys2Proof/Syntax.lean ====
section
/-! DEFINITION. The instructions of a HERA CPU, one constructor per row of spec/opcode_table.json (R3, R94, R318), the
fifteen branch conditions (R210), and the sets of words that no row assigns (R95). -/

namespace Sys2Proof

/-- The fifteen branch conditions (R210). The code 0001 is unused and has no constructor (R95, sets U-a and U-b). -/
inductive Cond where
  /-- the unconditional branch, code 0000 -/
  | always
  /-- signed less than, code 0010 -/
  | l
  /-- signed greater than or equal, code 0011 -/
  | ge
  /-- signed less than or equal, code 0100 -/
  | le
  /-- signed greater than, code 0101 -/
  | g
  /-- unsigned less than or equal, code 0110 -/
  | ule
  /-- unsigned greater than, code 0111 -/
  | ug
  /-- zero, code 1000 -/
  | z
  /-- not zero, code 1001 -/
  | nz
  /-- carry, code 1010 -/
  | c
  /-- no carry, code 1011 -/
  | nc
  /-- sign set, code 1100 -/
  | s
  /-- sign clear, code 1101 -/
  | ns
  /-- overflow, code 1110 -/
  | v
  /-- no overflow, code 1111 -/
  | nv
  deriving DecidableEq, Repr

/-- The sets of words that match no row of the encoding table (R95); a decoder names the set it found the word in. -/
inductive UnassignedSet where
  /-- U-a: 0x0100 to 0x01FF, a relative branch with condition 0001 -/
  | uA
  /-- U-b: 0x1100 to 0x11FF, a register-mode branch with condition 0001 -/
  | uB
  /-- U-c: a register-mode branch with an assigned condition and w[7:4] not 0000 -/
  | uC
  /-- U-d: 0x2210 to 0x22FF, the SWI pattern with w[7:4] not 0000 -/
  | uD
  /-- U-e: 0x2301 to 0x23FF, the RTI pattern with w[7:0] not 0 -/
  | uE
  /-- U-f: 0x2400 to 0x2FFF, w[15:12] = 0010 and w[11:10] not 00 (R265) -/
  | uF
  /-- U-g: the flag-operation pattern with w[9] = 1 -/
  | uG
  /-- U-h: the SAVEF pattern with w[2:0] not 000 -/
  | uH
  deriving DecidableEq, Repr

/-- The 58 machine instructions (R3, R318). Register operands are numbers 0 to 15; amounts, offsets, distances and the
interrupt number are the numbers themselves, whose ranges `Instr.wellFormed` states (R93); immediates that are bits
(a byte of SETLO and SETHI, a flag mask) are bit vectors. -/
inductive Instr where
  /-- SETLO(d, v), R120 -/
  | setlo (d : Reg) (v : BitVec 8)
  /-- SETHI(d, v), R121 -/
  | sethi (d : Reg) (v : BitVec 8)
  /-- AND(d, a, b), R131 -/
  | and (d a b : Reg)
  /-- OR(d, a, b), R132 -/
  | or (d a b : Reg)
  /-- ADD(d, a, b), R134 -/
  | add (d a b : Reg)
  /-- SUB(d, a, b), R135 -/
  | sub (d a b : Reg)
  /-- MUL(d, a, b), R136 -/
  | mul (d a b : Reg)
  /-- XOR(d, a, b), R133 -/
  | xor (d a b : Reg)
  /-- INC(d, δ), R150: δ is the amount itself, 1 to 64 (R317) -/
  | inc (d : Reg) (amount : Nat)
  /-- DEC(d, δ), R151: δ is the amount itself, 1 to 64 (R317) -/
  | dec (d : Reg) (amount : Nat)
  /-- LSL(d, b), R161 -/
  | lsl (d b : Reg)
  /-- LSR(d, b), R162 -/
  | lsr (d b : Reg)
  /-- LSL8(d, b), R163 -/
  | lsl8 (d b : Reg)
  /-- LSR8(d, b), R164 -/
  | lsr8 (d b : Reg)
  /-- ASL(d, b), R165 -/
  | asl (d b : Reg)
  /-- ASR(d, b), R166 -/
  | asr (d b : Reg)
  /-- SAVEF(d), R180 -/
  | savef (d : Reg)
  /-- RSTRF(d), R181 -/
  | rstrf (d : Reg)
  /-- FON(v), R182 -/
  | fon (v : BitVec 5)
  /-- FOFF(v), R183 -/
  | foff (v : BitVec 5)
  /-- FSET5(v), R184 -/
  | fset5 (v : BitVec 5)
  /-- FSET4(v), R185: bit 4 of v stands in the word and has no effect (R96) -/
  | fset4 (v : BitVec 5)
  /-- LOAD(d, o, b), R201: o is 0 to 31 -/
  | load (d : Reg) (o : Nat) (b : Reg)
  /-- STORE(d, o, b), R202: o is 0 to 31 -/
  | store (d : Reg) (o : Nat) (b : Reg)
  /-- BR(b), R213 -/
  | br (b : Reg)
  /-- BL(b), R214 -/
  | bl (b : Reg)
  /-- BGE(b), R215 -/
  | bge (b : Reg)
  /-- BLE(b), R216 -/
  | ble (b : Reg)
  /-- BG(b), R217 -/
  | bg (b : Reg)
  /-- BULE(b), R218 -/
  | bule (b : Reg)
  /-- BUG(b), R219 -/
  | bug (b : Reg)
  /-- BZ(b), R220 -/
  | bz (b : Reg)
  /-- BNZ(b), R221 -/
  | bnz (b : Reg)
  /-- BC(b), R222 -/
  | bc (b : Reg)
  /-- BNC(b), R223 -/
  | bnc (b : Reg)
  /-- BS(b), R224 -/
  | bs (b : Reg)
  /-- BNS(b), R225 -/
  | bns (b : Reg)
  /-- BV(b), R226 -/
  | bv (b : Reg)
  /-- BNV(b), R227 -/
  | bnv (b : Reg)
  /-- BRR(o), R228: o is -128 to 127 -/
  | brr (o : Int)
  /-- BLR(o), R229: o is -128 to 127 -/
  | blr (o : Int)
  /-- BGER(o), R230: o is -128 to 127 -/
  | bger (o : Int)
  /-- BLER(o), R231: o is -128 to 127 -/
  | bler (o : Int)
  /-- BGR(o), R232: o is -128 to 127 -/
  | bgr (o : Int)
  /-- BULER(o), R233: o is -128 to 127 -/
  | buler (o : Int)
  /-- BUGR(o), R234: o is -128 to 127 -/
  | bugr (o : Int)
  /-- BZR(o), R235: o is -128 to 127 -/
  | bzr (o : Int)
  /-- BNZR(o), R236: o is -128 to 127 -/
  | bnzr (o : Int)
  /-- BCR(o), R237: o is -128 to 127 -/
  | bcr (o : Int)
  /-- BNCR(o), R238: o is -128 to 127 -/
  | bncr (o : Int)
  /-- BSR(o), R239: o is -128 to 127 -/
  | bsr (o : Int)
  /-- BNSR(o), R240: o is -128 to 127 -/
  | bnsr (o : Int)
  /-- BVR(o), R241: o is -128 to 127 -/
  | bvr (o : Int)
  /-- BNVR(o), R242: o is -128 to 127 -/
  | bnvr (o : Int)
  /-- CALL(a, b), R260 -/
  | call (a b : Reg)
  /-- RETURN(a, b), R261 (`return` is a word of Lean) -/
  | ret (a b : Reg)
  /-- SWI(i), R263: i is 0 to 15 -/
  | swi (i : Nat)
  /-- RTI(), R264 -/
  | rti
  deriving DecidableEq, Repr

/-- The register-mode branch of a condition (R210). -/
def Cond.registerBranch : Cond → Reg → Instr
  | .always => .br
  | .l => .bl
  | .ge => .bge
  | .le => .ble
  | .g => .bg
  | .ule => .bule
  | .ug => .bug
  | .z => .bz
  | .nz => .bnz
  | .c => .bc
  | .nc => .bnc
  | .s => .bs
  | .ns => .bns
  | .v => .bv
  | .nv => .bnv

/-- The relative branch of a condition (R210). -/
def Cond.relativeBranch : Cond → Int → Instr
  | .always => .brr
  | .l => .blr
  | .ge => .bger
  | .le => .bler
  | .g => .bgr
  | .ule => .buler
  | .ug => .bugr
  | .z => .bzr
  | .nz => .bnzr
  | .c => .bcr
  | .nc => .bncr
  | .s => .bsr
  | .ns => .bnsr
  | .v => .bvr
  | .nv => .bnvr

end Sys2Proof
end

