-- ==== Sys2Proof/WellFormed.lean ====
section
/-! DEFINITION. Which instruction terms are instructions of the machine: the ranges of the operands that the syntax holds
as plain numbers (R93). Every register number, byte and flag mask is in range by its type. -/

namespace Sys2Proof

/-- INC and DEC add or subtract 1 to 64: "there is no increment or decrement by zero" (R84, R93). -/
def amountInRange (amount : Nat) : Bool := decide (1 ≤ amount) && decide (amount ≤ 64)

/-- The offset of LOAD and STORE is a 5-bit unsigned number (R93, R200). -/
def offsetInRange (o : Nat) : Bool := decide (o ≤ 31)

/-- The distance of a relative branch is an 8-bit signed number (R90, R93). -/
def distanceInRange (o : Int) : Bool := decide (-128 ≤ o) && decide (o ≤ 127)

/-- The interrupt number of SWI is a 4-bit unsigned number (R92, R93). -/
def interruptInRange (i : Nat) : Bool := decide (i ≤ 15)

/-- An instruction whose operands are all in the range its encoding admits (R93). No word decodes to any other (log 4). -/
def Instr.wellFormed : Instr → Bool
  | .setlo _ _ => true
  | .sethi _ _ => true
  | .and _ _ _ => true
  | .or _ _ _ => true
  | .add _ _ _ => true
  | .sub _ _ _ => true
  | .mul _ _ _ => true
  | .xor _ _ _ => true
  | .inc _ amount => amountInRange amount
  | .dec _ amount => amountInRange amount
  | .lsl _ _ => true
  | .lsr _ _ => true
  | .lsl8 _ _ => true
  | .lsr8 _ _ => true
  | .asl _ _ => true
  | .asr _ _ => true
  | .savef _ => true
  | .rstrf _ => true
  | .fon _ => true
  | .foff _ => true
  | .fset5 _ => true
  | .fset4 _ => true
  | .load _ o _ => offsetInRange o
  | .store _ o _ => offsetInRange o
  | .br _ => true
  | .bl _ => true
  | .bge _ => true
  | .ble _ => true
  | .bg _ => true
  | .bule _ => true
  | .bug _ => true
  | .bz _ => true
  | .bnz _ => true
  | .bc _ => true
  | .bnc _ => true
  | .bs _ => true
  | .bns _ => true
  | .bv _ => true
  | .bnv _ => true
  | .brr o => distanceInRange o
  | .blr o => distanceInRange o
  | .bger o => distanceInRange o
  | .bler o => distanceInRange o
  | .bgr o => distanceInRange o
  | .buler o => distanceInRange o
  | .bugr o => distanceInRange o
  | .bzr o => distanceInRange o
  | .bnzr o => distanceInRange o
  | .bcr o => distanceInRange o
  | .bncr o => distanceInRange o
  | .bsr o => distanceInRange o
  | .bnsr o => distanceInRange o
  | .bvr o => distanceInRange o
  | .bnvr o => distanceInRange o
  | .call _ _ => true
  | .ret _ _ => true
  | .swi i => interruptInRange i
  | .rti => true

end Sys2Proof
end

