-- ==== Sys2Proof/Decode.lean ====
section
/-! DEFINITION. The decoder and the encoder of the 16-bit instruction word (R80 to R97). -/

namespace Sys2Proof

/-- The slice of `len` bits of w whose lowest is bit `lo` (R7). -/
def field (lo len : Nat) (w : Word) : BitVec len := w.extractLsb' lo len

/-- The register number in the four bits of w from bit `lo` up (R20). -/
def regField (lo : Nat) (w : Word) : Reg := (field lo 4 w).toFin

/-- The relative branch of a condition code (R90, R210). `cond` is a four-bit number: the last arm is code 1111. -/
def decodeRelative (cond : Nat) (o : Int) : Except UnassignedSet Instr :=
  match cond with
  | 0 => .ok (.brr o)
  | 1 => .error .uA
  | 2 => .ok (.blr o)
  | 3 => .ok (.bger o)
  | 4 => .ok (.bler o)
  | 5 => .ok (.bgr o)
  | 6 => .ok (.buler o)
  | 7 => .ok (.bugr o)
  | 8 => .ok (.bzr o)
  | 9 => .ok (.bnzr o)
  | 10 => .ok (.bcr o)
  | 11 => .ok (.bncr o)
  | 12 => .ok (.bsr o)
  | 13 => .ok (.bnsr o)
  | 14 => .ok (.bvr o)
  | _ => .ok (.bnvr o)

/-- The register-mode branch of a condition code (R89, R210). `cond` is a four-bit number: the last arm is code 1111. -/
def decodeRegisterMode (cond : Nat) (b : Reg) : Except UnassignedSet Instr :=
  match cond with
  | 0 => .ok (.br b)
  | 1 => .error .uB
  | 2 => .ok (.bl b)
  | 3 => .ok (.bge b)
  | 4 => .ok (.ble b)
  | 5 => .ok (.bg b)
  | 6 => .ok (.bule b)
  | 7 => .ok (.bug b)
  | 8 => .ok (.bz b)
  | 9 => .ok (.bnz b)
  | 10 => .ok (.bc b)
  | 11 => .ok (.bnc b)
  | 12 => .ok (.bs b)
  | 13 => .ok (.bns b)
  | 14 => .ok (.bv b)
  | _ => .ok (.bnv b)

/-- Group 0001: a register-mode branch, whose w[7:4] is 0000 (R89, R95). -/
def decodeGroup1 (w : Word) : Except UnassignedSet Instr :=
  if (field 8 4 w).toNat ≠ 1 ∧ field 4 4 w ≠ 0 then .error .uC
  else decodeRegisterMode (field 8 4 w).toNat (regField 0 w)

/-- Group 0010: CALL, RETURN, SWI, RTI and the unspecified remainder (R91, R92, R95, R265). -/
def decodeGroup2 (w : Word) : Except UnassignedSet Instr :=
  match (field 8 4 w).toNat with
  | 0 => .ok (.call (regField 4 w) (regField 0 w))
  | 1 => .ok (.ret (regField 4 w) (regField 0 w))
  | 2 => if field 4 4 w = 0 then .ok (.swi (field 0 4 w).toNat) else .error .uD
  | 3 => if field 0 8 w = 0 then .ok .rti else .error .uE
  | _ => .error .uF

/-- The 5-bit immediate w[8] ∥ w[3:0] of the flag operations (R87). -/
def flagImmediate (w : Word) : BitVec 5 := field 8 1 w ++ field 0 4 w

/-- Format FLAGOP: w[11:9] selects the operation; its low bit w[9] is 0 in every assigned value (R87, R95). -/
def decodeFlagOp (w : Word) : Except UnassignedSet Instr :=
  match (field 9 3 w).toNat with
  | 0 => .ok (.fon (flagImmediate w))
  | 2 => .ok (.fset5 (flagImmediate w))
  | 4 => .ok (.foff (flagImmediate w))
  | 6 => .ok (.fset4 (flagImmediate w))
  | _ => .error .uG

/-- Group 0011: w[7] marks INC and DEC; otherwise w[6:4] selects a shift, a flag operation or SAVEF and RSTRF
(R84 to R87, R94). -/
def decodeGroup3 (w : Word) : Except UnassignedSet Instr :=
  let d := regField 8 w
  let b := regField 0 w
  if field 7 1 w = 1 then
    if field 6 1 w = 0 then .ok (.inc d ((field 0 6 w).toNat + 1)) else .ok (.dec d ((field 0 6 w).toNat + 1))
  else
    match (field 4 3 w).toNat with
    | 0 => .ok (.lsl d b)
    | 1 => .ok (.lsr d b)
    | 2 => .ok (.lsl8 d b)
    | 3 => .ok (.lsr8 d b)
    | 4 => .ok (.asl d b)
    | 5 => .ok (.asr d b)
    | 6 => decodeFlagOp w
    | _ =>
      if field 0 3 w = 0 then (if field 3 1 w = 0 then .ok (.savef d) else .ok (.rstrf d)) else .error .uH

/-- The 5-bit offset w[12] ∥ w[7:4] of LOAD and STORE (R88, R200). -/
def offsetField (w : Word) : Nat := (field 12 1 w ++ field 4 4 w).toNat

/-- The instruction that the word w stands for, or the set of unassigned words it lies in (R81, R94, R95). -/
def decode (w : Word) : Except UnassignedSet Instr :=
  let d := regField 8 w
  let a := regField 4 w
  let b := regField 0 w
  match (field 12 4 w).toNat with
  | 0 => decodeRelative (field 8 4 w).toNat (field 0 8 w).toInt
  | 1 => decodeGroup1 w
  | 2 => decodeGroup2 w
  | 3 => decodeGroup3 w
  | 4 => .ok (.load d (offsetField w) b)
  | 5 => .ok (.load d (offsetField w) b)
  | 6 => .ok (.store d (offsetField w) b)
  | 7 => .ok (.store d (offsetField w) b)
  | 8 => .ok (.and d a b)
  | 9 => .ok (.or d a b)
  | 10 => .ok (.add d a b)
  | 11 => .ok (.sub d a b)
  | 12 => .ok (.mul d a b)
  | 13 => .ok (.xor d a b)
  | 14 => .ok (.setlo d (field 0 8 w))
  | _ => .ok (.sethi d (field 0 8 w))

/-- The instruction the decoder reads from a word of `nbits` bits (every HERA instruction is one 16-bit word, R80: a
shorter `nbits` leaves the bits above it 0). -/
def decodeTableWord (nbits w : Nat) : Option Instr :=
  (decode (BitVec.ofNat 16 (w % 2 ^ nbits))).toOption

/-! The encoder, written from the same formats. -/

/-- A register number as a 4-bit field (R20). -/
def regBits (r : Reg) : BitVec 4 := BitVec.ofNat 4 r.val

/-- A word from its four 4-bit digits, the first in bits 15:12 (R7). -/
def word4 (n3 n2 n1 n0 : BitVec 4) : Word := n3 ++ n2 ++ n1 ++ n0

/-- Format SET (R82). -/
def encodeSet (op : BitVec 4) (d : Reg) (v : BitVec 8) : Word :=
  word4 op (regBits d) (v.extractLsb' 4 4) (v.extractLsb' 0 4)

/-- Format ALU3 (R83). -/
def encodeAlu3 (op : BitVec 4) (d a b : Reg) : Word := word4 op (regBits d) (regBits a) (regBits b)

/-- Format INCDEC (R84): ε = δ - 1 in w[5:0]. -/
def encodeIncDec (isDec : BitVec 1) (d : Reg) (amount : Nat) : Word :=
  let e := BitVec.ofNat 6 (amount - 1)
  word4 0x3#4 (regBits d) (1#1 ++ isDec ++ e.extractLsb' 4 2) (e.extractLsb' 0 4)

/-- Formats SHIFT and SAVEF (R85, R86): w[7:4] selects the operation. -/
def encodeShift (op : BitVec 4) (d : Reg) (low : BitVec 4) : Word := word4 0x3#4 (regBits d) op low

/-- Format FLAGOP (R87): w[11:9] is the flag operation, v is w[8] ∥ w[3:0]. -/
def encodeFlagOp (op : BitVec 3) (v : BitVec 5) : Word :=
  word4 0x3#4 (op ++ v.extractLsb' 4 1) 0x6#4 (v.extractLsb' 0 4)

/-- Format MEM (R88): the offset is w[12] ∥ w[7:4]. -/
def encodeMem (isStore : BitVec 1) (d : Reg) (o : Nat) (b : Reg) : Word :=
  let ob := BitVec.ofNat 5 o
  word4 (0b01#2 ++ isStore ++ ob.extractLsb' 4 1) (regBits d) (ob.extractLsb' 0 4) (regBits b)

/-- Format BREG (R89). -/
def encodeBranchRegister (cond : BitVec 4) (b : Reg) : Word := word4 0x1#4 cond 0x0#4 (regBits b)

/-- Format BREL (R90). -/
def encodeBranchRelative (cond : BitVec 4) (o : Int) : Word :=
  let ob := BitVec.ofInt 8 o
  word4 0x0#4 cond (ob.extractLsb' 4 4) (ob.extractLsb' 0 4)

/-- The word of an instruction (R82 to R94). -/
def encode : Instr → Word
  | .setlo d v => encodeSet 0xE#4 d v
  | .sethi d v => encodeSet 0xF#4 d v
  | .and d a b => encodeAlu3 0x8#4 d a b
  | .or d a b => encodeAlu3 0x9#4 d a b
  | .add d a b => encodeAlu3 0xA#4 d a b
  | .sub d a b => encodeAlu3 0xB#4 d a b
  | .mul d a b => encodeAlu3 0xC#4 d a b
  | .xor d a b => encodeAlu3 0xD#4 d a b
  | .inc d amount => encodeIncDec 0#1 d amount
  | .dec d amount => encodeIncDec 1#1 d amount
  | .lsl d b => encodeShift 0x0#4 d (regBits b)
  | .lsr d b => encodeShift 0x1#4 d (regBits b)
  | .lsl8 d b => encodeShift 0x2#4 d (regBits b)
  | .lsr8 d b => encodeShift 0x3#4 d (regBits b)
  | .asl d b => encodeShift 0x4#4 d (regBits b)
  | .asr d b => encodeShift 0x5#4 d (regBits b)
  | .savef d => encodeShift 0x7#4 d 0x0#4
  | .rstrf d => encodeShift 0x7#4 d 0x8#4
  | .fon v => encodeFlagOp 0b000#3 v
  | .foff v => encodeFlagOp 0b100#3 v
  | .fset5 v => encodeFlagOp 0b010#3 v
  | .fset4 v => encodeFlagOp 0b110#3 v
  | .load d o b => encodeMem 0#1 d o b
  | .store d o b => encodeMem 1#1 d o b
  | .br b => encodeBranchRegister 0x0#4 b
  | .bl b => encodeBranchRegister 0x2#4 b
  | .bge b => encodeBranchRegister 0x3#4 b
  | .ble b => encodeBranchRegister 0x4#4 b
  | .bg b => encodeBranchRegister 0x5#4 b
  | .bule b => encodeBranchRegister 0x6#4 b
  | .bug b => encodeBranchRegister 0x7#4 b
  | .bz b => encodeBranchRegister 0x8#4 b
  | .bnz b => encodeBranchRegister 0x9#4 b
  | .bc b => encodeBranchRegister 0xA#4 b
  | .bnc b => encodeBranchRegister 0xB#4 b
  | .bs b => encodeBranchRegister 0xC#4 b
  | .bns b => encodeBranchRegister 0xD#4 b
  | .bv b => encodeBranchRegister 0xE#4 b
  | .bnv b => encodeBranchRegister 0xF#4 b
  | .brr o => encodeBranchRelative 0x0#4 o
  | .blr o => encodeBranchRelative 0x2#4 o
  | .bger o => encodeBranchRelative 0x3#4 o
  | .bler o => encodeBranchRelative 0x4#4 o
  | .bgr o => encodeBranchRelative 0x5#4 o
  | .buler o => encodeBranchRelative 0x6#4 o
  | .bugr o => encodeBranchRelative 0x7#4 o
  | .bzr o => encodeBranchRelative 0x8#4 o
  | .bnzr o => encodeBranchRelative 0x9#4 o
  | .bcr o => encodeBranchRelative 0xA#4 o
  | .bncr o => encodeBranchRelative 0xB#4 o
  | .bsr o => encodeBranchRelative 0xC#4 o
  | .bnsr o => encodeBranchRelative 0xD#4 o
  | .bvr o => encodeBranchRelative 0xE#4 o
  | .bnvr o => encodeBranchRelative 0xF#4 o
  | .call a b => word4 0x2#4 0x0#4 (regBits a) (regBits b)
  | .ret a b => word4 0x2#4 0x1#4 (regBits a) (regBits b)
  | .swi i => word4 0x2#4 0x2#4 0x0#4 (BitVec.ofNat 4 i)
  | .rti => word4 0x2#4 0x3#4 0x0#4 0x0#4

/-! The table of assigned encodings (R94): a word is the instruction when `w & mask = bits`. The decoder does not use it;
statements hold the decoder against it. -/

/-- One row of the encoding table (R94). -/
structure EncodingRow where
  /-- the bits that select the instruction -/
  mask : Word
  /-- their values -/
  bits : Word
  deriving DecidableEq, Repr

/-- Whether a word matches a row (R94). -/
def EncodingRow.accepts (r : EncodingRow) (w : Word) : Bool := w &&& r.mask == r.bits

/-- The row of an instruction (R94). -/
def encodingRow : Instr → EncodingRow
  | .setlo _ _ => ⟨0xF000#16, 0xE000#16⟩
  | .sethi _ _ => ⟨0xF000#16, 0xF000#16⟩
  | .and _ _ _ => ⟨0xF000#16, 0x8000#16⟩
  | .or _ _ _ => ⟨0xF000#16, 0x9000#16⟩
  | .add _ _ _ => ⟨0xF000#16, 0xA000#16⟩
  | .sub _ _ _ => ⟨0xF000#16, 0xB000#16⟩
  | .mul _ _ _ => ⟨0xF000#16, 0xC000#16⟩
  | .xor _ _ _ => ⟨0xF000#16, 0xD000#16⟩
  | .inc _ _ => ⟨0xF0C0#16, 0x3080#16⟩
  | .dec _ _ => ⟨0xF0C0#16, 0x30C0#16⟩
  | .lsl _ _ => ⟨0xF0F0#16, 0x3000#16⟩
  | .lsr _ _ => ⟨0xF0F0#16, 0x3010#16⟩
  | .lsl8 _ _ => ⟨0xF0F0#16, 0x3020#16⟩
  | .lsr8 _ _ => ⟨0xF0F0#16, 0x3030#16⟩
  | .asl _ _ => ⟨0xF0F0#16, 0x3040#16⟩
  | .asr _ _ => ⟨0xF0F0#16, 0x3050#16⟩
  | .savef _ => ⟨0xF0FF#16, 0x3070#16⟩
  | .rstrf _ => ⟨0xF0FF#16, 0x3078#16⟩
  | .fon _ => ⟨0xFEF0#16, 0x3060#16⟩
  | .foff _ => ⟨0xFEF0#16, 0x3860#16⟩
  | .fset5 _ => ⟨0xFEF0#16, 0x3460#16⟩
  | .fset4 _ => ⟨0xFEF0#16, 0x3C60#16⟩
  | .load _ _ _ => ⟨0xE000#16, 0x4000#16⟩
  | .store _ _ _ => ⟨0xE000#16, 0x6000#16⟩
  | .br _ => ⟨0xFFF0#16, 0x1000#16⟩
  | .bl _ => ⟨0xFFF0#16, 0x1200#16⟩
  | .bge _ => ⟨0xFFF0#16, 0x1300#16⟩
  | .ble _ => ⟨0xFFF0#16, 0x1400#16⟩
  | .bg _ => ⟨0xFFF0#16, 0x1500#16⟩
  | .bule _ => ⟨0xFFF0#16, 0x1600#16⟩
  | .bug _ => ⟨0xFFF0#16, 0x1700#16⟩
  | .bz _ => ⟨0xFFF0#16, 0x1800#16⟩
  | .bnz _ => ⟨0xFFF0#16, 0x1900#16⟩
  | .bc _ => ⟨0xFFF0#16, 0x1A00#16⟩
  | .bnc _ => ⟨0xFFF0#16, 0x1B00#16⟩
  | .bs _ => ⟨0xFFF0#16, 0x1C00#16⟩
  | .bns _ => ⟨0xFFF0#16, 0x1D00#16⟩
  | .bv _ => ⟨0xFFF0#16, 0x1E00#16⟩
  | .bnv _ => ⟨0xFFF0#16, 0x1F00#16⟩
  | .brr _ => ⟨0xFF00#16, 0x0000#16⟩
  | .blr _ => ⟨0xFF00#16, 0x0200#16⟩
  | .bger _ => ⟨0xFF00#16, 0x0300#16⟩
  | .bler _ => ⟨0xFF00#16, 0x0400#16⟩
  | .bgr _ => ⟨0xFF00#16, 0x0500#16⟩
  | .buler _ => ⟨0xFF00#16, 0x0600#16⟩
  | .bugr _ => ⟨0xFF00#16, 0x0700#16⟩
  | .bzr _ => ⟨0xFF00#16, 0x0800#16⟩
  | .bnzr _ => ⟨0xFF00#16, 0x0900#16⟩
  | .bcr _ => ⟨0xFF00#16, 0x0A00#16⟩
  | .bncr _ => ⟨0xFF00#16, 0x0B00#16⟩
  | .bsr _ => ⟨0xFF00#16, 0x0C00#16⟩
  | .bnsr _ => ⟨0xFF00#16, 0x0D00#16⟩
  | .bvr _ => ⟨0xFF00#16, 0x0E00#16⟩
  | .bnvr _ => ⟨0xFF00#16, 0x0F00#16⟩
  | .call _ _ => ⟨0xFF00#16, 0x2000#16⟩
  | .ret _ _ => ⟨0xFF00#16, 0x2100#16⟩
  | .swi _ => ⟨0xFFF0#16, 0x2200#16⟩
  | .rti => ⟨0xFFFF#16, 0x2300#16⟩

/-- The 58 rows, in the order of spec/opcode_table.json. -/
def encodingTable : List EncodingRow :=
  [encodingRow (.setlo 0 0), encodingRow (.sethi 0 0), encodingRow (.and 0 0 0),
   encodingRow (.or 0 0 0), encodingRow (.add 0 0 0), encodingRow (.sub 0 0 0),
   encodingRow (.mul 0 0 0), encodingRow (.xor 0 0 0), encodingRow (.inc 0 0),
   encodingRow (.dec 0 0), encodingRow (.lsl 0 0), encodingRow (.lsr 0 0),
   encodingRow (.lsl8 0 0), encodingRow (.lsr8 0 0), encodingRow (.asl 0 0),
   encodingRow (.asr 0 0), encodingRow (.savef 0), encodingRow (.rstrf 0),
   encodingRow (.fon 0), encodingRow (.foff 0), encodingRow (.fset5 0),
   encodingRow (.fset4 0), encodingRow (.load 0 0 0), encodingRow (.store 0 0 0),
   encodingRow (.br 0), encodingRow (.bl 0), encodingRow (.bge 0),
   encodingRow (.ble 0), encodingRow (.bg 0), encodingRow (.bule 0),
   encodingRow (.bug 0), encodingRow (.bz 0), encodingRow (.bnz 0),
   encodingRow (.bc 0), encodingRow (.bnc 0), encodingRow (.bs 0),
   encodingRow (.bns 0), encodingRow (.bv 0), encodingRow (.bnv 0),
   encodingRow (.brr 0), encodingRow (.blr 0), encodingRow (.bger 0),
   encodingRow (.bler 0), encodingRow (.bgr 0), encodingRow (.buler 0),
   encodingRow (.bugr 0), encodingRow (.bzr 0), encodingRow (.bnzr 0),
   encodingRow (.bcr 0), encodingRow (.bncr 0), encodingRow (.bsr 0),
   encodingRow (.bnsr 0), encodingRow (.bvr 0), encodingRow (.bnvr 0),
   encodingRow (.call 0 0), encodingRow (.ret 0 0), encodingRow (.swi 0),
   encodingRow (.rti)]

end Sys2Proof
end

