-- ==== Sys2Proof/Config.lean ====
section
/-! DEFINITION. What the spec leaves to an implementation or platform (R6): the two open values of the processor
as constants without a body, and the two placement parameters of the loader. -/

namespace Sys2Proof

/-- `DMEM_INIT` (R6, R63, D4, D24): what a data cell holds at the start of the run when no data statement filled it.
DESIGN CHOICE (log 5) for the form: one arbitrary value per address, fixed for the run. It has no body, so no proof
can use a particular value; safe. -/
opaque Config.dmemInit : Word → Word

/-- `MUL_HI_VC` (R6, R136, D10), the overflow flag: the value of v after the n-th high-word MUL. It has no body: any
value, a fresh draw each time, independent of `Config.mulHiC` (log 6); safe. -/
opaque Config.mulHiV : Nat → Bool

/-- `MUL_HI_VC` (R6, R136, D10), the carry flag: the value of c after the n-th high-word MUL. No body, as
`Config.mulHiV` (log 6); safe. -/
opaque Config.mulHiC : Nat → Bool

/-- `CODE_BASE` (R6, R56, R312, D22): the instruction address of the first instruction of a program. -/
def Config.codeBase : Nat := 0

/-- `DATA_BASE` (R6, R56, R312, D22): the data address of the first data statement. -/
def Config.dataBase : Nat := 0xC001

end Sys2Proof
end

