-- ==== Sys2Proof/Machine/Flags.lean ====
section
/-! DEFINITION. The five flags and every flag computation the spec gives (R26 to R33, R130, R134 to R137, R150, R151, R160,
R210). Arithmetic is exact, on Nat and Int, and narrowed at the end. -/

namespace Sys2Proof.Machine

/-- The flags register F (R26): carry-block, carry, overflow, zero, sign, bits 4 to 0. Every one of its 32 values is legal
(R34). -/
structure Flags where
  /-- carry-block, F4, mask 0x10 -/
  cb : Bool
  /-- carry, F3, mask 0x08 -/
  c : Bool
  /-- overflow, F2, mask 0x04 -/
  v : Bool
  /-- zero, F1, mask 0x02 -/
  z : Bool
  /-- sign, F0, mask 0x01 -/
  s : Bool
  deriving DecidableEq, Repr

/-- The flags as the 5-bit value cb ∥ c ∥ v ∥ z ∥ s (R9, R26). -/
def Flags.toBits (f : Flags) : BitVec 5 :=
  BitVec.ofBool f.cb ++ BitVec.ofBool f.c ++ BitVec.ofBool f.v ++ BitVec.ofBool f.z ++ BitVec.ofBool f.s

/-- The flags of a 5-bit value: flag F_i is bit i (R26, R186). -/
def Flags.ofBits (b : BitVec 5) : Flags :=
  { cb := b.getLsbD 4, c := b.getLsbD 3, v := b.getLsbD 2, z := b.getLsbD 1, s := b.getLsbD 0 }

/-- The incoming carry `CIN` = c and not carry-block (R33). -/
def Flags.carryIn (f : Flags) : Bool := f.c && !f.cb

/-- The incoming borrow `BIN` = not c and not carry-block (R33). -/
def Flags.borrowIn (f : Flags) : Bool := !f.c && !f.cb

/-- s becomes bit 15 of the value produced, z whether it is 0 (R27, R28, R130, R160). -/
def Flags.withSignZero (f : Flags) (r : Word) : Flags := { f with s := r.getLsbD 15, z := r == 0#16 }

/-- s and z from the value produced, c as given (the one-bit shifts, R160). -/
def Flags.withSignZeroCarry (f : Flags) (r : Word) (c : Bool) : Flags := { f.withSignZero r with c := c }

/-- The value, overflow and carry an arithmetic instruction produces. -/
structure ArithResult where
  /-- the 16-bit value -/
  value : Word
  /-- signed overflow -/
  overflow : Bool
  /-- carry out, or absence of a borrow -/
  carry : Bool
  deriving DecidableEq, Repr

/-- All four of s, z, v, c from an arithmetic result; carry-block is kept (R31, R130). -/
def Flags.withArith (f : Flags) (r : ArithResult) : Flags :=
  { f.withSignZero r.value with v := r.overflow, c := r.carry }

/-- x + y + cin (R134): c is the carry out of bit 15, v says that the signed sum does not fit; the incoming carry counts
in both (D7). -/
def addArith (x y : Word) (cin : Bool) : ArithResult :=
  let sum := x.toNat + y.toNat + cin.toNat
  let r := BitVec.ofNat 16 sum
  { value := r, overflow := decide (x.toInt + y.toInt + cin.toNat ≠ r.toInt), carry := decide (65536 ≤ sum) }

/-- x - y - bin (R135): c is the absence of a borrow (C2), v says that the signed difference does not fit; the incoming
borrow counts in both (D7). -/
def subArith (x y : Word) (bin : Bool) : ArithResult :=
  let diff : Int := (x.toNat : Int) - y.toNat - bin.toNat
  let r := BitVec.ofInt 16 diff
  { value := r, overflow := decide (x.toInt - y.toInt - bin.toNat ≠ r.toInt), carry := decide (0 ≤ diff) }

/-- x + δ with no incoming carry (R150). -/
def incArith (x : Word) (amount : Nat) : ArithResult :=
  let sum := x.toNat + amount
  let r := BitVec.ofNat 16 sum
  { value := r, overflow := decide (x.toInt + amount ≠ r.toInt), carry := decide (65536 ≤ sum) }

/-- x - δ with no incoming borrow (R151). -/
def decArith (x : Word) (amount : Nat) : ArithResult :=
  let diff : Int := (x.toNat : Int) - amount
  let r := BitVec.ofInt 16 diff
  { value := r, overflow := decide (x.toInt - amount ≠ r.toInt), carry := decide (0 ≤ diff) }

/-- Bits 15:0 of the product (R136, LOW mode): c says that the unsigned product does not fit, v that the signed one does
not. -/
def mulLowArith (x y : Word) : ArithResult :=
  let pu := x.toNat * y.toNat
  let r := BitVec.ofNat 16 pu
  { value := r, overflow := decide (x.toInt * y.toInt ≠ r.toInt), carry := decide (65536 ≤ pu) }

/-- Bits 31:16 of the signed product (R136, HIGH mode). -/
def mulHighValue (x y : Word) : Word := BitVec.ofInt 16 (x.toInt * y.toInt / 65536)

/-- The three modes of MUL (R136, R137). -/
inductive MulMode where
  /-- the low word of the product -/
  | low
  /-- the high word of the signed product -/
  | high
  /-- the fourteen flag states whose behaviour is "currently undefined" -/
  | undefined
  deriving DecidableEq, Repr

/-- MUL mode selection by all five flags (R137). -/
def mulMode (f : Flags) : MulMode :=
  if f.cb then .low
  else if f.c || f.v || f.z then .undefined
  else if f.s then .high
  else .low

/-- The value of LSL and ASL: old bits 14:0 move to 15:1, the incoming carry enters bit 0 (R161, R165). -/
def shiftLeftValue (x : Word) (cin : Bool) : Word := x.extractLsb' 0 15 ++ BitVec.ofBool cin

/-- The value of LSR: old bits 15:1 move to 14:0, the incoming carry enters bit 15 (R162). -/
def shiftRightValue (x : Word) (cin : Bool) : Word := BitVec.ofBool cin ++ x.extractLsb' 1 15

/-- The value of ASR: the sign bit is kept and copied into bit 14 (R166, D28). -/
def arithShiftRightValue (x : Word) : Word := x.extractLsb' 15 1 ++ x.extractLsb' 1 15

/-- The value of LSL8: the low byte moves to the high byte, zeros enter (R163). -/
def shiftLeft8Value (x : Word) : Word := x.extractLsb' 0 8 ++ 0#8

/-- The value of LSR8: the high byte moves to the low byte, zeros enter (R164). -/
def shiftRight8Value (x : Word) : Word := 0#8 ++ x.extractLsb' 8 8

/-- The overflow flag of ASL: the v of ADD(d, b, b), bit 15 xor bit 14 of the source (R165). -/
def aslOverflow (x : Word) : Bool := x.getLsbD 15 ^^ x.getLsbD 14

/-- Whether a branch with this condition is taken, on the flags before the instruction (R210). -/
def condTaken (cond : Cond) (f : Flags) : Bool :=
  match cond with
  | .always => true
  | .l => f.s ^^ f.v
  | .ge => !(f.s ^^ f.v)
  | .le => (f.s ^^ f.v) || f.z
  | .g => !((f.s ^^ f.v) || f.z)
  | .ule => !f.c || f.z
  | .ug => !(!f.c || f.z)
  | .z => f.z
  | .nz => !f.z
  | .c => f.c
  | .nc => !f.c
  | .s => f.s
  | .ns => !f.s
  | .v => f.v
  | .nv => !f.v

end Sys2Proof.Machine
end

