-- ==== Sys2Proof/Machine/ResetValues.lean ====
section
/-! DEFINITION. The values of the registers when the processor starts (R39, R400 to R402). -/

namespace Sys2Proof.Machine

/-- R1 to R15 at start: "with all registers (including FP and SP) being 0" (R39, R400, D2). -/
def resetRegister : Word := 0#16

/-- The PC at start is CODE_BASE = 0 (R39, R401, D1); no vector is fetched. -/
def resetPc : Word := BitVec.ofNat 16 Config.codeBase

/-- The flags of `State.reset`. DESIGN CHOICE (log 3), unsafe: the spec leaves RESET_FLAGS open and rules zero out (R402,
D3); all five flags on is the other start value that Part C of 95_test_vectors.md was checked with. `State.start` takes
any value, and statements about the start quantify over it. -/
def resetFlags : Flags := Flags.ofBits 0x1F#5

/-- The first draw's number. DESIGN CHOICE (log 6); no statement rests on it. -/
def resetDraws : Nat := 0

end Sys2Proof.Machine
end

