-- ==== Sys2Proof/Machine/State.lean ====
section
/-! DEFINITION. The machine's state (R20 to R39), the reasons a step can stop (R10, R371), and the state after reset
(R39, R400 to R403). -/

namespace Sys2Proof.Machine

/-- One 16-bit cell of a memory at its address (R50, R53: the word is the smallest unit, HERA has no bytes; log 1). -/
abbrev Cell := Nat × Word

/-- A memory: its listed cells, addresses strictly rising, in one canonical form (`Memory.wf`). An unlisted address holds
nothing: for data memory no value has been written or loaded there, for instruction memory the program does not fill it. -/
abbrev Memory := List Cell

/-- The state of a HERA CPU (R20 to R38), complete by R34, R35 and R38. -/
structure State where
  /-- R0 to R15 (R20); register 0 is read and written through `State.readReg` and `State.writeReg` (R21) -/
  regs : Vector Word 16
  /-- the program counter, the address of the instruction being executed (R24) -/
  pc : Word
  /-- the five flags (R26) -/
  flags : Flags
  /-- data memory (R36): the cells written by a STORE or filled by a data statement -/
  dmem : Memory
  /-- instruction memory, `IMEM` (R37): the program, which no instruction writes (R61; log 2) -/
  imem : Memory
  /-- the MODEL's own field: how many high-word MULs have drawn their v and c (R136, D10; log 6) -/
  draws : Nat
  deriving DecidableEq, Repr

/-- Why a step has no next state: the kinds of `Unspecified` (R10, R371). None is a trap of HERA (R370); each ends the run
without a final state (R407). All are safe: the model stops where the spec gives no behaviour. -/
inductive Fault where
  /-- the fetched word is one of the 8031 unassigned words, in the set named (R95; log 10); raised by the step; safe -/
  | unassignedEncoding (inSet : UnassignedSet)
  /-- MUL with carry-block 0 and (c, v, z, s) neither 0000 nor 0001 (R137; log 7); raised by MUL; safe -/
  | mulUndefinedFlags
  /-- CALL or RETURN with a = b not 0, or b = 14 (R262; log 8); raised by CALL and RETURN; safe -/
  | callRegisterCollision
  /-- SWI or RTI executed with INTERRUPT_MODEL unset (R263, R264; log 9); raised by SWI and RTI; safe -/
  | interruptOpcode
  /-- the PC addresses an instruction cell the program did not fill (R64; log 11); raised by the step; safe -/
  | fetchOutsideProgram
  deriving DecidableEq, Repr

/-- Why a step is refused. -/
inductive Refusal where
  /-- an instruction whose arm of `exec` has no meaning yet; raised by such an arm only, and no arm is one; safe -/
  | notModelled (mnemonic : String)
  deriving DecidableEq, Repr

/-- The outcome of executing an instruction or a step. -/
abbrev Result := Host.Outcome State Fault Refusal

/-- The start state (R39, R400 to R403) with the open parameter `RESET_FLAGS` as an argument (D3): all registers and the PC
0, memories with nothing listed. -/
def State.start (flags : Flags) : State :=
  { regs := Vector.replicate 16 resetRegister
    pc := resetPc
    flags := flags
    dmem := []
    imem := []
    draws := resetDraws }

/-- The machine right after reset: the start state with the flags the model names (log 3). -/
def State.reset : State := State.start resetFlags

end Sys2Proof.Machine
end

