-- ==== Sys2Proof/Machine/Platform.lean ====
section
/-! DEFINITION. The parameters HARVARD and INTERRUPT_MODEL (R6). The other six parameters of R6 stand where they are used:
CODE_BASE, DATA_BASE, DMEM_INIT and MUL_HI_VC in Config.lean, RESET_FLAGS as the argument of `State.start`, IMEM in
`State.imem` (log 2). A type `σ` holds what a platform keeps beside the machine's own state, such as the saved PC of an
interrupt, since the spec invents no such state (R38, R372; log 20). -/

namespace Sys2Proof.Machine

/-- `HARVARD` (R6, R51, D15): whether instruction memory and data memory are separate systems. For a unified memory "this
spec gives none" of the rules by which a STORE becomes visible to fetch, so the platform brings its own. -/
inductive MemoryArrangement (σ : Type) where
  /-- HARVARD true: a fetch reads instruction memory, which no instruction writes -/
  | separate
  /-- HARVARD false: code and data share the cells of data memory, and a fetch gives what the platform's rule says; where the
  rule says nothing, the fetch is one outside the program (log 20) -/
  | unified (fetchRule : State → σ → Option Word)

/-- `INTERRUPT_MODEL` (R6, R263, R264, R372, D13, D20): "a description of SWI, RTI and hardware interrupts", each as what it
does to the machine's state and the platform's own. DESIGN CHOICE (log 20): a description may be partial. Where it gives SWI or
RTI no effect, such as an RTI with no interrupt in service, which "has no defined meaning either" (R264), the instruction
stops as it does without a description. -/
structure InterruptModel (σ : Type) where
  /-- what SWI(i) does, where the description says it -/
  swi : Nat → State → σ → Option (State × σ)
  /-- what RTI does, where the description says it -/
  rti : State → σ → Option (State × σ)
  /-- what the hardware signal of a number does before an instruction, where the platform takes it; taking it is a step of its
  own (log 20) -/
  signal : Nat → State → σ → Option (State × σ)

/-- The two parameters of R6 that concern the platform around the processor. -/
structure Platform (σ : Type) where
  /-- HARVARD -/
  memory : MemoryArrangement σ
  /-- INTERRUPT_MODEL, if the platform has one -/
  interrupts : Option (InterruptModel σ)

/-- The value of `HARVARD`. -/
def Platform.harvard {σ : Type} (p : Platform σ) : Bool :=
  match p.memory with
  | .separate => true
  | .unified _ => false

/-- The values of this spec (R6): HARVARD true (D15; log 14), INTERRUPT_MODEL absent (D13, D20; logs 9 and 13). -/
def Platform.standard : Platform Unit := { memory := .separate, interrupts := none }

end Sys2Proof.Machine
end

