-- ==== Sys2Proof/Machine/Ops.lean ====
section
/-! DEFINITION. The named operations over memory, registers and the program counter. HERA has no exception (R10, R370,
R374): there is no operation that takes one and none that returns from one. -/

namespace Sys2Proof.Machine

/-! ## Memory -/

/-- What is listed at an address, if anything. -/
def Memory.read? : Memory → Nat → Option Word
  | [], _ => none
  | (k, v) :: rest, a => if k = a then some v else Memory.read? rest a

/-- The memory with the cell at address `a` holding `v`, and every other cell as before (R63, `MemWrite`). -/
def Memory.write : Memory → Nat → Word → Memory
  | [], a, v => [(a, v)]
  | (k, u) :: rest, a, v =>
    if a < k then (a, v) :: (k, u) :: rest
    else if a = k then (a, v) :: rest
    else (k, u) :: Memory.write rest a v

/-- Every listed address is at least `lo` and below 2^16, and the addresses rise strictly. -/
def Memory.wfFrom (lo : Nat) : Memory → Bool
  | [] => true
  | (k, _) :: rest => decide (lo ≤ k) && decide (k < 65536) && Memory.wfFrom (k + 1) rest

/-- The canonical form: addresses strictly rising, each a 16-bit address (R50). -/
def Memory.wf (m : Memory) : Bool := Memory.wfFrom 0 m

/-! ## Data memory -/

/-- What a data cell reads as when nothing has been stored or loaded there: `DMEM_INIT`, any value, fixed for the run
(R63, D24; log 5). -/
def unlistedData (a : Word) : Word := Config.dmemInit a

/-- `MemRead(a, 1)` (R63): the latest value stored at the cell, or the value it had at the start. -/
def State.readData (s : State) (a : Word) : Word :=
  match s.dmem.read? a.toNat with
  | some v => v
  | none => unlistedData a

/-- `MemWrite(a, 1, v)` (R63). -/
def State.writeData (s : State) (a v : Word) : State := { s with dmem := s.dmem.write a.toNat v }

/-! ## Instruction memory -/

/-- `IFetch(pc)` (R64) on a platform: with separate memories the word of instruction memory at the PC, if the program fills
that cell; with a unified memory what the platform's rule says (R51, R61, D15). -/
def Platform.fetch {σ : Type} (p : Platform σ) (s : State) (own : σ) : Option Word :=
  match p.memory with
  | .separate => s.imem.read? s.pc.toNat
  | .unified fetchRule => fetchRule s own

/-- `IFetch(pc)` (R64) with the parameters at this spec's values. -/
def State.fetch (s : State) : Option Word := Platform.standard.fetch s ()

/-- A word placed in instruction memory from outside the machine (R61, R314; log 2). -/
def State.placeInstruction (s : State) (a w : Word) : State := { s with imem := s.imem.write a.toNat w }

/-! ## Registers -/

/-- Read of a general register: R0 always has the value 0 (R21). -/
def State.readReg (s : State) (r : Reg) : Word := if r = 0 then 0#16 else s.regs[r]

/-- Write of a general register: the processor ignores a value directed into R0 (R21). -/
def State.writeReg (s : State) (r : Reg) (v : Word) : State :=
  if r = 0 then s else { s with regs := s.regs.set r v }

/-! ## Flags and program counter -/

/-- The state with the flags given. -/
def State.withFlags (s : State) (f : Flags) : State := { s with flags := f }

/-- The address of the next instruction in memory: PC + 1, modulo 2^16 (R25, D5). -/
def State.nextPc (s : State) : Word := s.pc + 1#16

/-- The state with the PC given (R9, `pc <- t`). -/
def State.jump (s : State) (target : Word) : State := { s with pc := target }

/-- The usual progress of the PC (R9, R25). -/
def State.advance (s : State) : State := s.jump s.nextPc

/-! ## How instructions end -/

/-- A register instruction ends: the value goes to register d, the flags become f, the PC advances. -/
def State.retire (s : State) (d : Reg) (r : Word) (f : Flags) : State := ((s.writeReg d r).withFlags f).advance

/-- A branch ends: to the target if taken, to PC + 1 otherwise (R211, R212). Nothing else changes. -/
def State.branch (s : State) (taken : Bool) (target : Word) : State := s.jump (if taken then target else s.nextPc)

/-- Whether two of the four transfers of CALL aim different values at one register (R262). -/
def callCollides (a b : Reg) : Bool := (decide (a = b) && !decide (a = 0)) || decide (b = Reg.fp)

/-- The exchange of CALL and RETURN (R260): PC with register b, FP with register a; all four right-hand sides are read
before any write. -/
def State.exchange (s : State) (a b : Reg) : State :=
  let newPc := s.readReg b
  let ret := s.nextPc
  let newFp := s.readReg a
  let oldFp := s.readReg Reg.fp
  (((s.jump newPc).writeReg b ret).writeReg Reg.fp newFp).writeReg a oldFp

end Sys2Proof.Machine
end

