-- ==== Sys2Proof/Machine/Operands.lean ====
section
/-! DEFINITION. The operand forms (R93, R200, R211, R212): what each immediate stands for and where a memory instruction or
a branch points. Register operands are `State.readReg` and `State.writeReg`. -/

namespace Sys2Proof.Machine

/-- The immediate of SETLO: 8 bits, sign-extended (R93, R120). -/
def signedByte (v : BitVec 8) : Word := v.signExtend 16

/-- SETHI: the immediate in bits 15:8, the old bits 7:0 kept (R93, R121). -/
def highByte (v : BitVec 8) (old : Word) : Word := v ++ old.extractLsb' 0 8

/-- SAVEF: the five flags in bits 4:0, bits 15:5 zero (R180, D8). -/
def flagsWord (f : Flags) : Word := f.toBits.setWidth 16

/-- RSTRF: the flags from bits 4:0 of a register, bits 15:5 ignored (R181, D9). -/
def wordFlags (w : Word) : Flags := Flags.ofBits (w.extractLsb' 0 5)

/-- FON: the flags named by v on, the others kept (R182). -/
def flagsOn (f : Flags) (v : BitVec 5) : Flags := Flags.ofBits (f.toBits ||| v)

/-- FOFF: the flags named by v off, the others kept (R183). -/
def flagsOff (f : Flags) (v : BitVec 5) : Flags := Flags.ofBits (f.toBits &&& ~~~v)

/-- FSET4: the four flags other than carry-block from bits 3:0 of v; bit 4 of v has no effect (R185, R96, D18). -/
def flagsSet4 (f : Flags) (v : BitVec 5) : Flags := { Flags.ofBits v with cb := f.cb }

/-- The effective address of LOAD and STORE: base register plus offset, modulo 2^16 (R65, R200, D6). -/
def State.effectiveAddress (s : State) (o : Nat) (b : Reg) : Word := BitVec.ofNat 16 ((s.readReg b).toNat + o)

/-- The target of a relative branch: the branch's own address plus the signed distance, modulo 2^16 (R212, D5). -/
def State.relativeTarget (s : State) (o : Int) : Word := BitVec.ofInt 16 ((s.pc.toNat : Int) + o)

/-- The target of a register-mode branch: all sixteen bits of the register (R211). -/
def State.registerTarget (s : State) (b : Reg) : Word := s.readReg b

end Sys2Proof.Machine
end

