-- ==== Sys2Proof/Machine/ArithLogic.lean ====
section
/-! DEFINITION. The arithmetic and bit-wise instructions (R130 to R138). -/

namespace Sys2Proof.Machine

/-- A bit-wise operation ends: s and z from the value, v, c and carry-block kept (R130). -/
def State.retireBitwise (s : State) (d : Reg) (r : Word) : State := s.retire d r (s.flags.withSignZero r)

/-- An arithmetic operation ends: s, z, v, c from the result, carry-block kept (R130, R134 to R136). -/
def State.retireArith (s : State) (d : Reg) (r : ArithResult) : State := s.retire d r.value (s.flags.withArith r)

/-- AND(d, a, b) (R131). -/
def execAnd (d a b : Reg) (s : State) : Result := .next (s.retireBitwise d (s.readReg a &&& s.readReg b))

/-- OR(d, a, b) (R132). -/
def execOr (d a b : Reg) (s : State) : Result := .next (s.retireBitwise d (s.readReg a ||| s.readReg b))

/-- XOR(d, a, b) (R133). -/
def execXor (d a b : Reg) (s : State) : Result := .next (s.retireBitwise d (s.readReg a ^^^ s.readReg b))

/-- ADD(d, a, b): addition with the incoming carry unless blocked (R134). -/
def execAdd (d a b : Reg) (s : State) : Result :=
  .next (s.retireArith d (addArith (s.readReg a) (s.readReg b) s.flags.carryIn))

/-- SUB(d, a, b): subtraction with the incoming borrow unless blocked (R135). -/
def execSub (d a b : Reg) (s : State) : Result :=
  .next (s.retireArith d (subArith (s.readReg a) (s.readReg b) s.flags.borrowIn))

/-- A high-word MUL: the high word of the signed product; s and z from it; v and c are free values, a fresh draw each time
(R136, D10; log 6). -/
def State.mulHigh (s : State) (d : Reg) (x y : Word) : State :=
  let r := mulHighValue x y
  let drawn : ArithResult := { value := r, overflow := Config.mulHiV s.draws, carry := Config.mulHiC s.draws }
  { s.retireArith d drawn with draws := s.draws + 1 }

/-- MUL(d, a, b): the mode is selected by all five flags before the instruction (R136, R137); in the fourteen undefined
states it has no defined result (D11; log 7). -/
def execMul (d a b : Reg) (s : State) : Result :=
  match mulMode s.flags with
  | .low => .next (s.retireArith d (mulLowArith (s.readReg a) (s.readReg b)))
  | .high => .next (s.mulHigh d (s.readReg a) (s.readReg b))
  | .undefined => .fault .mulUndefinedFlags

end Sys2Proof.Machine
end

