-- ==== Sys2Proof/Machine/Branch.lean ====
section
/-! DEFINITION. The thirty branches (R210 to R245): no register, flag or memory cell changes. -/

namespace Sys2Proof.Machine

/-- A register-mode branch (R211). -/
def branchRegister (cond : Cond) (b : Reg) (s : State) : Result :=
  .next (s.branch (condTaken cond s.flags) (s.registerTarget b))

/-- A relative branch (R212). -/
def branchRelative (cond : Cond) (o : Int) (s : State) : Result :=
  .next (s.branch (condTaken cond s.flags) (s.relativeTarget o))

/-- BR(b) (R213). -/
def execBr (b : Reg) (s : State) : Result := branchRegister .always b s

/-- BL(b) (R214). -/
def execBl (b : Reg) (s : State) : Result := branchRegister .l b s

/-- BGE(b) (R215). -/
def execBge (b : Reg) (s : State) : Result := branchRegister .ge b s

/-- BLE(b) (R216). -/
def execBle (b : Reg) (s : State) : Result := branchRegister .le b s

/-- BG(b) (R217). -/
def execBg (b : Reg) (s : State) : Result := branchRegister .g b s

/-- BULE(b) (R218). -/
def execBule (b : Reg) (s : State) : Result := branchRegister .ule b s

/-- BUG(b) (R219). -/
def execBug (b : Reg) (s : State) : Result := branchRegister .ug b s

/-- BZ(b) (R220). -/
def execBz (b : Reg) (s : State) : Result := branchRegister .z b s

/-- BNZ(b) (R221). -/
def execBnz (b : Reg) (s : State) : Result := branchRegister .nz b s

/-- BC(b) (R222). -/
def execBc (b : Reg) (s : State) : Result := branchRegister .c b s

/-- BNC(b) (R223). -/
def execBnc (b : Reg) (s : State) : Result := branchRegister .nc b s

/-- BS(b) (R224). -/
def execBs (b : Reg) (s : State) : Result := branchRegister .s b s

/-- BNS(b) (R225). -/
def execBns (b : Reg) (s : State) : Result := branchRegister .ns b s

/-- BV(b) (R226). -/
def execBv (b : Reg) (s : State) : Result := branchRegister .v b s

/-- BNV(b) (R227). -/
def execBnv (b : Reg) (s : State) : Result := branchRegister .nv b s

/-- BRR(o) (R228). HALT and NOP are its distances 0 and 1 (R243). -/
def execBrr (o : Int) (s : State) : Result := branchRelative .always o s

/-- BLR(o) (R229). -/
def execBlr (o : Int) (s : State) : Result := branchRelative .l o s

/-- BGER(o) (R230). -/
def execBger (o : Int) (s : State) : Result := branchRelative .ge o s

/-- BLER(o) (R231). -/
def execBler (o : Int) (s : State) : Result := branchRelative .le o s

/-- BGR(o) (R232). -/
def execBgr (o : Int) (s : State) : Result := branchRelative .g o s

/-- BULER(o) (R233). -/
def execBuler (o : Int) (s : State) : Result := branchRelative .ule o s

/-- BUGR(o) (R234). -/
def execBugr (o : Int) (s : State) : Result := branchRelative .ug o s

/-- BZR(o) (R235). -/
def execBzr (o : Int) (s : State) : Result := branchRelative .z o s

/-- BNZR(o) (R236). -/
def execBnzr (o : Int) (s : State) : Result := branchRelative .nz o s

/-- BCR(o) (R237). -/
def execBcr (o : Int) (s : State) : Result := branchRelative .c o s

/-- BNCR(o) (R238). -/
def execBncr (o : Int) (s : State) : Result := branchRelative .nc o s

/-- BSR(o) (R239). -/
def execBsr (o : Int) (s : State) : Result := branchRelative .s o s

/-- BNSR(o) (R240). -/
def execBnsr (o : Int) (s : State) : Result := branchRelative .ns o s

/-- BVR(o) (R241). -/
def execBvr (o : Int) (s : State) : Result := branchRelative .v o s

/-- BNVR(o) (R242). -/
def execBnvr (o : Int) (s : State) : Result := branchRelative .nv o s

end Sys2Proof.Machine
end

