-- ==== Sys2Proof/Machine/CallReturn.lean ====
section
/-! DEFINITION. CALL and RETURN (R260 to R262), and the codes reserved for interrupts (R263, R264). -/

namespace Sys2Proof.Machine

/-- The common action of CALL and RETURN; colliding operands have no defined result (R260, R262, D14; log 8). -/
def callOrReturn (a b : Reg) (s : State) : Result :=
  if callCollides a b then .fault .callRegisterCollision else .next (s.exchange a b)

/-- CALL(a, b) (R260). -/
def execCall (a b : Reg) (s : State) : Result := callOrReturn a b s

/-- RETURN(a, b): "the action of these instructions is the same" (R261). -/
def execRet (a b : Reg) (s : State) : Result := callOrReturn a b s

/-- SWI and RTI on a platform: the effect that its INTERRUPT_MODEL describes; "with the parameter absent", a fault (R263, R264,
D13; log 9), and the same fault where the description gives no effect (log 20). -/
def interruptCode {σ : Type} (p : Platform σ) (effect : InterruptModel σ → Option (State × σ)) :
    Host.Outcome (State × σ) Fault Refusal :=
  match p.interrupts.bind effect with
  | none => .fault .interruptOpcode
  | some next => .next next

/-- SWI(i) on a platform (R263). -/
def swiOn {σ : Type} (p : Platform σ) (i : Nat) (s : State) (own : σ) : Host.Outcome (State × σ) Fault Refusal :=
  interruptCode p (fun m => m.swi i s own)

/-- RTI() on a platform (R264). -/
def rtiOn {σ : Type} (p : Platform σ) (s : State) (own : σ) : Host.Outcome (State × σ) Fault Refusal :=
  interruptCode p (fun m => m.rti s own)

/-- The machine's part of an outcome on a platform. -/
def machinePart {σ : Type} : Host.Outcome (State × σ) Fault Refusal → Result
  | .next t => .next t.1
  | .fault r => .fault r
  | .refused r => .refused r

/-- SWI(i) with INTERRUPT_MODEL at this spec's value: the source gives no effect (R263, D13; log 9). "It must not be
modelled as a no-op." -/
def execSwi (i : Nat) (s : State) : Result := machinePart (swiOn Platform.standard i s ())

/-- RTI() with INTERRUPT_MODEL at this spec's value: the source gives no effect (R264, D13; log 9). -/
def execRti (s : State) : Result := machinePart (rtiOn Platform.standard s ())

end Sys2Proof.Machine
end

