-- ==== Sys2Proof/Machine/FlagOps.lean ====
section
/-! DEFINITION. Direct manipulation of flags (R180 to R186). -/

namespace Sys2Proof.Machine

/-- SAVEF(d): the flags go to x[d]; no flag changes (R180). -/
def execSavef (d : Reg) (s : State) : Result := .next (s.retire d (flagsWord s.flags) s.flags)

/-- RSTRF(d): all five flags come from x[d] (R181). -/
def execRstrf (d : Reg) (s : State) : Result := .next (s.withFlags (wordFlags (s.readReg d))).advance

/-- FON(v) (R182). -/
def execFon (v : BitVec 5) (s : State) : Result := .next (s.withFlags (flagsOn s.flags v)).advance

/-- FOFF(v) (R183). -/
def execFoff (v : BitVec 5) (s : State) : Result := .next (s.withFlags (flagsOff s.flags v)).advance

/-- FSET5(v) (R184). -/
def execFset5 (v : BitVec 5) (s : State) : Result := .next (s.withFlags (Flags.ofBits v)).advance

/-- FSET4(v) (R185). -/
def execFset4 (v : BitVec 5) (s : State) : Result := .next (s.withFlags (flagsSet4 s.flags v)).advance

end Sys2Proof.Machine
end

