-- ==== Sys2Proof/Machine/IncDec.lean ====
section
/-! DEFINITION. INC and DEC (R150 to R152): flags as ADD and SUB, the incoming carry always ignored. -/

namespace Sys2Proof.Machine

/-- INC(d, δ) (R150). -/
def execInc (d : Reg) (amount : Nat) (s : State) : Result :=
  .next (s.retireArith d (incArith (s.readReg d) amount))

/-- DEC(d, δ) (R151). -/
def execDec (d : Reg) (amount : Nat) (s : State) : Result :=
  .next (s.retireArith d (decArith (s.readReg d) amount))

end Sys2Proof.Machine
end

