-- ==== Sys2Proof/Machine/LoadStore.lean ====
section
/-! DEFINITION. LOAD and STORE (R200 to R203), the only instructions that touch data memory (R52). -/

namespace Sys2Proof.Machine

/-- LOAD(d, o, b): x[d] becomes the cell at the effective address; s and z from it (R201). -/
def execLoad (d : Reg) (o : Nat) (b : Reg) (s : State) : Result :=
  let r := s.readData (s.effectiveAddress o b)
  .next (s.retire d r (s.flags.withSignZero r))

/-- STORE(d, o, b): the cell at the effective address becomes x[d]; no flag is modified or used (R202). -/
def execStore (d : Reg) (o : Nat) (b : Reg) (s : State) : Result :=
  .next (s.writeData (s.effectiveAddress o b) (s.readReg d)).advance

end Sys2Proof.Machine
end

