-- ==== Sys2Proof/Machine/SetOps.lean ====
section
/-! DEFINITION. SETLO and SETHI (R120 to R122): neither reads nor writes a flag. -/

namespace Sys2Proof.Machine

/-- SETLO(d, v): x[d] becomes the sign-extended byte (R120). -/
def execSetlo (d : Reg) (v : BitVec 8) (s : State) : Result := .next (s.retire d (signedByte v) s.flags)

/-- SETHI(d, v): bits 15:8 of x[d] become v, bits 7:0 are kept (R121). -/
def execSethi (d : Reg) (v : BitVec 8) (s : State) : Result :=
  .next (s.retire d (highByte v (s.readReg d)) s.flags)

end Sys2Proof.Machine
end

