-- ==== Sys2Proof/Machine/Shift.lean ====
section
/-! DEFINITION. The shift instructions (R160 to R167): by one bit or by eight. -/

namespace Sys2Proof.Machine

/-- A one-bit logical or right shift ends: s and z from the value, c the bit shifted out; v and carry-block kept (R160). -/
def State.retireShift (s : State) (d : Reg) (r : Word) (out : Bool) : State :=
  s.retire d r (s.flags.withSignZeroCarry r out)

/-- LSL(d, b) (R161). -/
def execLsl (d b : Reg) (s : State) : Result :=
  .next (s.retireShift d (shiftLeftValue (s.readReg b) s.flags.carryIn) ((s.readReg b).getLsbD 15))

/-- LSR(d, b) (R162). -/
def execLsr (d b : Reg) (s : State) : Result :=
  .next (s.retireShift d (shiftRightValue (s.readReg b) s.flags.carryIn) ((s.readReg b).getLsbD 0))

/-- An eight-bit shift ends: s and z from the value; v, c and carry-block kept (R160). -/
def State.retireShift8 (s : State) (d : Reg) (r : Word) : State := s.retire d r (s.flags.withSignZero r)

/-- LSL8(d, b) (R163). -/
def execLsl8 (d b : Reg) (s : State) : Result := .next (s.retireShift8 d (shiftLeft8Value (s.readReg b)))

/-- LSR8(d, b) (R164). -/
def execLsr8 (d b : Reg) (s : State) : Result := .next (s.retireShift8 d (shiftRight8Value (s.readReg b)))

/-- ASL(d, b): the value and carry of LSL, and v the overflow of doubling (R165). -/
def execAsl (d b : Reg) (s : State) : Result :=
  let x := s.readReg b
  let r : ArithResult :=
    { value := shiftLeftValue x s.flags.carryIn, overflow := aslOverflow x, carry := x.getLsbD 15 }
  .next (s.retire d r.value (s.flags.withArith r))

/-- ASR(d, b): the incoming carry is ignored (R166). -/
def execAsr (d b : Reg) (s : State) : Result :=
  .next (s.retireShift d (arithShiftRightValue (s.readReg b)) ((s.readReg b).getLsbD 0))

end Sys2Proof.Machine
end

