-- ==== Sys2Proof/Machine/Dispatch.lean ====
section
/-! DEFINITION. One arm per instruction. -/

namespace Sys2Proof.Machine

def exec (i : Instr) (s : State) : Host.Outcome State Fault Refusal :=
  match i with
  | .setlo d v => Sys2Proof.Machine.execSetlo d v s
  | .sethi d v => Sys2Proof.Machine.execSethi d v s
  | .and d a b => Sys2Proof.Machine.execAnd d a b s
  | .or d a b => Sys2Proof.Machine.execOr d a b s
  | .add d a b => Sys2Proof.Machine.execAdd d a b s
  | .sub d a b => Sys2Proof.Machine.execSub d a b s
  | .mul d a b => Sys2Proof.Machine.execMul d a b s
  | .xor d a b => Sys2Proof.Machine.execXor d a b s
  | .inc d amount => Sys2Proof.Machine.execInc d amount s
  | .dec d amount => Sys2Proof.Machine.execDec d amount s
  | .lsl d b => Sys2Proof.Machine.execLsl d b s
  | .lsr d b => Sys2Proof.Machine.execLsr d b s
  | .lsl8 d b => Sys2Proof.Machine.execLsl8 d b s
  | .lsr8 d b => Sys2Proof.Machine.execLsr8 d b s
  | .asl d b => Sys2Proof.Machine.execAsl d b s
  | .asr d b => Sys2Proof.Machine.execAsr d b s
  | .savef d => Sys2Proof.Machine.execSavef d s
  | .rstrf d => Sys2Proof.Machine.execRstrf d s
  | .fon v => Sys2Proof.Machine.execFon v s
  | .foff v => Sys2Proof.Machine.execFoff v s
  | .fset5 v => Sys2Proof.Machine.execFset5 v s
  | .fset4 v => Sys2Proof.Machine.execFset4 v s
  | .load d o b => Sys2Proof.Machine.execLoad d o b s
  | .store d o b => Sys2Proof.Machine.execStore d o b s
  | .br b => Sys2Proof.Machine.execBr b s
  | .bl b => Sys2Proof.Machine.execBl b s
  | .bge b => Sys2Proof.Machine.execBge b s
  | .ble b => Sys2Proof.Machine.execBle b s
  | .bg b => Sys2Proof.Machine.execBg b s
  | .bule b => Sys2Proof.Machine.execBule b s
  | .bug b => Sys2Proof.Machine.execBug b s
  | .bz b => Sys2Proof.Machine.execBz b s
  | .bnz b => Sys2Proof.Machine.execBnz b s
  | .bc b => Sys2Proof.Machine.execBc b s
  | .bnc b => Sys2Proof.Machine.execBnc b s
  | .bs b => Sys2Proof.Machine.execBs b s
  | .bns b => Sys2Proof.Machine.execBns b s
  | .bv b => Sys2Proof.Machine.execBv b s
  | .bnv b => Sys2Proof.Machine.execBnv b s
  | .brr o => Sys2Proof.Machine.execBrr o s
  | .blr o => Sys2Proof.Machine.execBlr o s
  | .bger o => Sys2Proof.Machine.execBger o s
  | .bler o => Sys2Proof.Machine.execBler o s
  | .bgr o => Sys2Proof.Machine.execBgr o s
  | .buler o => Sys2Proof.Machine.execBuler o s
  | .bugr o => Sys2Proof.Machine.execBugr o s
  | .bzr o => Sys2Proof.Machine.execBzr o s
  | .bnzr o => Sys2Proof.Machine.execBnzr o s
  | .bcr o => Sys2Proof.Machine.execBcr o s
  | .bncr o => Sys2Proof.Machine.execBncr o s
  | .bsr o => Sys2Proof.Machine.execBsr o s
  | .bnsr o => Sys2Proof.Machine.execBnsr o s
  | .bvr o => Sys2Proof.Machine.execBvr o s
  | .bnvr o => Sys2Proof.Machine.execBnvr o s
  | .call a b => Sys2Proof.Machine.execCall a b s
  | .ret a b => Sys2Proof.Machine.execRet a b s
  | .swi n => Sys2Proof.Machine.execSwi n s
  | .rti => Sys2Proof.Machine.execRti s

end Sys2Proof.Machine
end

