-- ==== Sys2Proof/Machine/Step.lean ====
section
/-! DEFINITION. One step: fetch the word at the PC, decode it, apply the one rule that matches (R405). -/

namespace Sys2Proof.Machine

/-- One step (R405): a fetch must succeed before decoding, and decoding before any operand case (R371). -/
def step (s : State) : Host.Outcome State Fault Refusal :=
  match s.fetch with
  | none => .fault .fetchOutsideProgram
  | some w =>
    match decode w with
    | .error u => .fault (.unassignedEncoding u)
    | .ok i => exec i s

/-- The state with an instruction word of `nbits` bits placed where the next step fetches: instruction memory at the PC
(log 2). -/
def State.withFetchWord (s : State) (nbits w : Nat) : State :=
  s.placeInstruction s.pc (BitVec.ofNat 16 (w % 2 ^ nbits))

end Sys2Proof.Machine
end

