-- ==== Sys2Proof/Safety.lean ====
section
/-! DEFINITION. What statements about the machine are written in: the invariant of the state, what a step leaves unchanged,
how an instruction completes, and how a run ends (R406, R407). -/

namespace Sys2Proof.Machine

/-- The state is in canonical form: both memories are (`Memory.wf`), and the slot of the zero register holds zero. -/
def State.wf (s : State) : Bool := s.dmem.wf && s.imem.wf && s.regs[0] == 0#16

/-- Every general register reads as before. -/
def SameRegisters (s t : State) : Prop := ∀ r : Reg, t.readReg r = s.readReg r

/-- Register d reads as v, unless d is R0, which discards the write and reads as 0 (R21); every other register reads as
before. -/
def WritesOnly (d : Reg) (v : Word) (s t : State) : Prop :=
  ∀ r : Reg, t.readReg r = if r = d ∧ r ≠ 0 then v else s.readReg r

/-- Every data cell and every instruction cell reads as before. -/
def SameMemories (s t : State) : Prop := (∀ a : Word, t.readData a = s.readData a) ∧ t.imem = s.imem

/-- The instruction answers a next state in which register d received v, the flags are f, the PC is p, and every other
register, both memories and the model's counter are as before. -/
def Completes (i : Instr) (s : State) (d : Reg) (v : Word) (f : Flags) (p : Word) : Prop :=
  ∃ t, exec i s = .next t ∧ WritesOnly d v s t ∧ t.flags = f ∧ t.pc = p ∧ SameMemories s t ∧ t.draws = s.draws

/-- The instruction answers a next state in which the flags are f, the PC is p, and every register, both memories and the
model's counter are as before. -/
def CompletesWithoutRegister (i : Instr) (s : State) (f : Flags) (p : Word) : Prop :=
  ∃ t, exec i s = .next t ∧ SameRegisters s t ∧ t.flags = f ∧ t.pc = p ∧ SameMemories s t ∧ t.draws = s.draws

/-- The branch answers a next state in which only the PC may have changed: it is the target when the branch is taken, the
next address otherwise (R211, R212). -/
def BranchCompletes (i : Instr) (s : State) (taken : Bool) (target : Word) : Prop :=
  CompletesWithoutRegister i s s.flags (if taken then target else s.pc + 1#16)

/-- The 16-bit word numbered n decodes to the instruction. -/
def DecodesTo (n : Nat) (i : Instr) : Prop := decode (BitVec.ofNat 16 n) = .ok i

/-- The 8-bit field of a relative branch's distance as a number 0 to 255 (R90). -/
def distanceField (o : Int) : Nat := (o % 256).toNat

/-! ## Which flags an instruction writes -/

/-- The row of an instruction in the flag table (R32): true where the table has "wr". -/
def flagsWritten : Instr → Flags
  | .setlo _ _ | .sethi _ _ => ⟨false, false, false, false, false⟩
  | .and _ _ _ | .or _ _ _ | .xor _ _ _ => ⟨false, false, false, true, true⟩
  | .add _ _ _ | .sub _ _ _ | .mul _ _ _ => ⟨false, true, true, true, true⟩
  | .inc _ _ | .dec _ _ => ⟨false, true, true, true, true⟩
  | .lsl _ _ | .lsr _ _ | .asr _ _ => ⟨false, true, false, true, true⟩
  | .asl _ _ => ⟨false, true, true, true, true⟩
  | .lsl8 _ _ | .lsr8 _ _ => ⟨false, false, false, true, true⟩
  | .savef _ => ⟨false, false, false, false, false⟩
  | .rstrf _ => ⟨true, true, true, true, true⟩
  | .fon v | .foff v => Flags.ofBits v
  | .fset5 _ => ⟨true, true, true, true, true⟩
  | .fset4 _ => ⟨false, true, true, true, true⟩
  | .load _ _ _ => ⟨false, false, false, true, true⟩
  | .store _ _ _ => ⟨false, false, false, false, false⟩
  | .br _ | .bl _ | .bge _ | .ble _ | .bg _ | .bule _ | .bug _ | .bz _ | .bnz _ | .bc _ | .bnc _ | .bs _ | .bns _
  | .bv _ | .bnv _ => ⟨false, false, false, false, false⟩
  | .brr _ | .blr _ | .bger _ | .bler _ | .bgr _ | .buler _ | .bugr _ | .bzr _ | .bnzr _ | .bcr _ | .bncr _ | .bsr _
  | .bnsr _ | .bvr _ | .bnvr _ => ⟨false, false, false, false, false⟩
  | .call _ _ | .ret _ _ => ⟨false, false, false, false, false⟩
  | .swi _ | .rti => ⟨false, false, false, false, false⟩

/-- Every flag outside the set has the same value in both. -/
def SameFlagsOutside (written before after : Flags) : Prop :=
  (written.s = false → after.s = before.s) ∧ (written.z = false → after.z = before.z) ∧
  (written.v = false → after.v = before.v) ∧ (written.c = false → after.c = before.c) ∧
  (written.cb = false → after.cb = before.cb)

/-- Branches, CALL and RETURN: the instructions that may end with another PC than PC + 1 (R25). -/
def instrMovesPc (i : Instr) : Bool :=
  match i with
  | .br _ | .bl _ | .bge _ | .ble _ | .bg _ | .bule _ | .bug _ | .bz _ | .bnz _ | .bc _ | .bnc _ | .bs _ | .bns _
  | .bv _ | .bnv _ => true
  | .brr _ | .blr _ | .bger _ | .bler _ | .bgr _ | .buler _ | .bugr _ | .bzr _ | .bnzr _ | .bcr _ | .bncr _ | .bsr _
  | .bnsr _ | .bvr _ | .bnvr _ => true
  | .call _ _ | .ret _ _ => true
  | .setlo _ _ | .sethi _ _ | .and _ _ _ | .or _ _ _ | .xor _ _ _ | .add _ _ _ | .sub _ _ _ | .mul _ _ _ => false
  | .inc _ _ | .dec _ _ | .lsl _ _ | .lsr _ _ | .asr _ _ | .asl _ _ | .lsl8 _ _ | .lsr8 _ _ => false
  | .savef _ | .rstrf _ | .fon _ | .foff _ | .fset5 _ | .fset4 _ | .load _ _ _ | .store _ _ _ => false
  | .swi _ | .rti => false

/-- Whether what an instruction does to registers, memory, PC and the flags it writes depends on the flags before it: the
"reads" lines of the instruction rules. FON, FOFF and FSET4 only keep the flags they do not write. -/
def readsFlags : Instr → Bool
  | .add _ _ _ | .sub _ _ _ | .mul _ _ _ | .lsl _ _ | .lsr _ _ | .asl _ _ | .savef _ => true
  | .bl _ | .bge _ | .ble _ | .bg _ | .bule _ | .bug _ | .bz _ | .bnz _ | .bc _ | .bnc _ | .bs _ | .bns _
  | .bv _ | .bnv _ => true
  | .blr _ | .bger _ | .bler _ | .bgr _ | .buler _ | .bugr _ | .bzr _ | .bnzr _ | .bcr _ | .bncr _ | .bsr _
  | .bnsr _ | .bvr _ | .bnvr _ => true
  | .br _ | .brr _ | .call _ _ | .ret _ _ | .swi _ | .rti => false
  | .setlo _ _ | .sethi _ _ | .and _ _ _ | .or _ _ _ | .xor _ _ _ | .inc _ _ | .dec _ _ => false
  | .lsl8 _ _ | .lsr8 _ _ | .asr _ _ | .rstrf _ | .fon _ | .foff _ | .fset5 _ | .fset4 _ => false
  | .load _ _ _ | .store _ _ _ => false

/-- Every flag of the set has the same value in both. -/
def SameFlagsInside (written f g : Flags) : Prop :=
  (written.s = true → f.s = g.s) ∧ (written.z = true → f.z = g.z) ∧ (written.v = true → f.v = g.v) ∧
  (written.c = true → f.c = g.c) ∧ (written.cb = true → f.cb = g.cb)

/-! ## Runs -/

/-- The PC holds the address of a word 0x0000, the HALT word: the end of a run (R243, R406, D17). -/
def State.atHalt (s : State) : Bool := s.fetch == some 0#16

/-- How a run stands after some steps (R406, R407). -/
inductive RunResult where
  /-- the run ended normally in this final state (R406) -/
  | halted (s : State)
  /-- no end of run was reached yet -/
  | running (s : State)
  /-- the run reached an `Unspecified` case in this state; it has no final state (R407) -/
  | faulted (s : State) (r : Fault)
  /-- an instruction without a meaning was reached -/
  | refused (s : State) (r : Refusal)
  deriving DecidableEq, Repr

/-- A run of at most k steps, ended at the first HALT word (R406, R407). -/
def run : Nat → State → RunResult
  | 0, s => if s.atHalt then .halted s else .running s
  | k + 1, s =>
    if s.atHalt then .halted s
    else
      match step s with
      | .next t => run k t
      | .fault r => .faulted s r
      | .refused r => .refused s r

/-- t is reached from s by steps of the machine. -/
inductive Reaches (s : State) : State → Prop where
  /-- no step -/
  | refl : Reaches s s
  /-- one more step -/
  | tail {t u : State} : Reaches s t → step t = .next u → Reaches s u

/-- A list of instructions executed one after the other, each by its meaning, stopping at the first fault or refusal. -/
def execAll : List Instr → State → Result
  | [], s => .next s
  | i :: rest, s =>
    match exec i s with
    | .next t => execAll rest t
    | .fault r => .fault r
    | .refused r => .refused r

end Sys2Proof.Machine
end

