-- ==== Sys2Proof/Machine/Assembler.lean ====
section
/-! DEFINITION. The standard assembler (48_assembler.md, R280 to R319; in scope by R3): statements to instruction words and
data cells, and the loader that places them (R314, R403). None of it is hardware; the machine never sees a statement.
Statements are terms here; Machine/AssemblyText.lean reads them from text. -/

namespace Sys2Proof.Machine

/-- A label or constant name, as its characters (R295). -/
abbrev Name := List Char

/-- Why the assembler refuses a program (D25). -/
inductive AsmError where
  /-- an operand outside the range of its field (R282, D25) -/
  | outOfRange (n : Int)
  /-- a name that no statement defines -/
  | undefinedName (n : Name)
  /-- a name defined twice (log 16) -/
  | duplicateName (n : Name)
  /-- a name that is no identifier (R295) -/
  | badName (n : Name)
  /-- a character or string literal outside the rules of R311 -/
  | badLiteral (text : List Char)
  /-- code or data past the end of its address space (log 16) -/
  | pastTheEnd
  /-- text that is no sequence of statements and directives (R280; log 18) -/
  | badText
  /-- a statement whose name is unknown or whose operands do not fit it (R280, R281) -/
  | badStatement (n : Name)
  /-- an included file that is not at hand (R316) -/
  | missingFile (n : List Char)
  /-- a text whose macros or included files do not come to an end (log 18) -/
  | tooLong
  /-- a program outside what a parameter of the tool requires (R304, R305, R313) -/
  | notAccepted
  deriving DecidableEq, Repr

/-- A value operand (R282): an integer, a character literal (the text between the quotes), or a defined name. -/
inductive Value where
  /-- a decimal or hexadecimal integer -/
  | int (n : Int)
  /-- a single-quoted character -/
  | chr (text : List Char)
  /-- a name defined by CONSTANT or DLABEL -/
  | name (n : Name)
  deriving DecidableEq, Repr

/-- A statement (R280, R318; sections 2 to 4 of 48_assembler.md). -/
inductive Stmt where
  /-- a machine instruction with literal operands (R318) -/
  | machine (i : Instr)
  /-- SETLO(d, v) with a value operand -/
  | setlo (d : Reg) (v : Value)
  /-- SETHI(d, v) with a value operand -/
  | sethi (d : Reg) (v : Value)
  /-- INC(d, δ) with a value operand (R317) -/
  | inc (d : Reg) (v : Value)
  /-- DEC(d, δ) with a value operand (R317) -/
  | dec (d : Reg) (v : Value)
  /-- FON(v) with a value operand -/
  | fon (v : Value)
  /-- FOFF(v) with a value operand -/
  | foff (v : Value)
  /-- FSET5(v) with a value operand -/
  | fset5 (v : Value)
  /-- FSET4(v) with a value operand -/
  | fset4 (v : Value)
  /-- LOAD(d, o, b) with a value operand -/
  | load (d : Reg) (o : Value) (b : Reg)
  /-- STORE(d, o, b) with a value operand -/
  | store (d : Reg) (o : Value) (b : Reg)
  /-- a relative branch by a distance given as a value operand -/
  | relative (cond : Cond) (o : Value)
  /-- SWI(i) with a value operand -/
  | swi (i : Value)
  /-- SET(d, v), R283 -/
  | set (d : Reg) (v : Value)
  /-- SETRF(d, v), R284 (the name is general knowledge, G1; log 17) -/
  | setrf (d : Reg) (v : Value)
  /-- MOVE(a, b), R285 -/
  | move (a b : Reg)
  /-- CMP(a, b), R286 -/
  | cmp (a b : Reg)
  /-- the short CMP(a, b), R319: no text writes it, `shortenCmps` puts it in a CMP's place -/
  | shortCmp (a b : Reg)
  /-- NEG(d, b), R287 -/
  | neg (d b : Reg)
  /-- NOT(d, b), R288 -/
  | not (d b : Reg)
  /-- CON(), R289 -/
  | con
  /-- COFF(), R290 -/
  | coff
  /-- CBON(), R291 -/
  | cbon
  /-- CCBOFF(), R292 -/
  | ccboff
  /-- FLAGS(a), R293 -/
  | flags (a : Reg)
  /-- OPCODE(n), R294 -/
  | opcode (n : Value)
  /-- LABEL(L), R296 -/
  | label (l : Name)
  /-- a register-mode branch to a label, R297, R299 -/
  | branchTo (cond : Cond) (l : Name)
  /-- a relative branch to a label (R298, R300), or by a distance that is a name's value (R282, R306) -/
  | relativeTo (cond : Cond) (l : Name)
  /-- NOP(), R301 -/
  | nop
  /-- HALT(), R302 -/
  | halt
  /-- CALL(a, L), R303 -/
  | callTo (a : Reg) (l : Name)
  /-- CONSTANT(N, v), R306 -/
  | constant (n : Name) (v : Value)
  /-- DLABEL(L), R307 -/
  | dlabel (l : Name)
  /-- INTEGER(i), R308 -/
  | integer (v : Value)
  /-- LP_STRING("s"), R309: the text between the quotes -/
  | lpString (text : List Char)
  /-- DSKIP(n), R310 -/
  | dskip (n : Value)
  deriving DecidableEq, Repr

/-! ## Literals and names -/

/-- The value of a hexadecimal digit's character code. -/
def hexDigit (c : Nat) : Option Nat :=
  if 48 ≤ c ∧ c ≤ 57 then some (c - 48)
  else if 65 ≤ c ∧ c ≤ 70 then some (c - 55)
  else if 97 ≤ c ∧ c ≤ 102 then some (c - 87)
  else none

/-- The number two hexadecimal digits write. -/
def hexPair (h l : Nat) : Option Nat :=
  match hexDigit h, hexDigit l with
  | some a, some b => some (16 * a + b)
  | _, _ => none

/-- The character codes of the text of a literal between two quotes of the code given (R311): printable ASCII and spaces
stand for themselves, but for that quote, which would end the literal; a backslash (92) opens only t, n, a backslash, a double
quote (34), xhh or uhhhh, with the values of C (G2, G3; log 17). -/
def unescape (quote : Nat) : List Nat → Option (List Nat)
  | [] => some []
  | 92 :: 116 :: rest => (unescape quote rest).map (9 :: ·)
  | 92 :: 110 :: rest => (unescape quote rest).map (10 :: ·)
  | 92 :: 92 :: rest => (unescape quote rest).map (92 :: ·)
  | 92 :: 34 :: rest => (unescape quote rest).map (34 :: ·)
  | 92 :: 120 :: h :: l :: rest =>
    match hexPair h l with
    | some c => (unescape quote rest).map (c :: ·)
    | none => none
  | 92 :: 117 :: h1 :: h2 :: h3 :: h4 :: rest =>
    match hexPair h1 h2, hexPair h3 h4 with
    | some hi, some lo => (unescape quote rest).map ((256 * hi + lo) :: ·)
    | _, _ => none
  | c :: rest => if 32 ≤ c ∧ c ≤ 126 ∧ c ≠ 92 ∧ c ≠ quote then (unescape quote rest).map (c :: ·) else none

/-- The character codes of a literal between quotes of the code given, or a refusal (R311). -/
def literalCodes (quote : Nat) (text : List Char) : Except AsmError (List Nat) :=
  match unescape quote (text.map Char.toNat) with
  | some codes => .ok codes
  | none => .error (.badLiteral text)

/-- The character codes of a double-quoted string (R309, R311). -/
def stringCodes (text : List Char) : Except AsmError (List Nat) := literalCodes 34 text

/-- The code of a single-quoted character (R282, R311). -/
def characterCode (text : List Char) : Except AsmError Nat :=
  match literalCodes 39 text with
  | .ok [c] => .ok c
  | _ => .error (.badLiteral text)

/-- A letter or an underscore, by character code (R295). -/
def isNameStart (c : Nat) : Bool :=
  (decide (65 ≤ c) && decide (c ≤ 90)) || (decide (97 ≤ c) && decide (c ≤ 122)) || decide (c = 95)

/-- A letter, a numeral or an underscore, by character code (R295). -/
def isNamePart (c : Nat) : Bool := isNameStart c || (decide (48 ≤ c) && decide (c ≤ 57))

/-- A label is "a sequence of letters, numerals, and underscores that does not start with a numeral" (R295). -/
def validName : Name → Bool
  | [] => false
  | c :: rest => isNameStart c.toNat && rest.all (fun x => isNamePart x.toNat)

/-- What a name stands for in a list of definitions. Names are compared character by character: DESIGN CHOICE (log 16), since the
spec does not say whether they are case-sensitive (N21). -/
def lookupName : List (Name × Int) → Name → Option Int
  | [], _ => none
  | (k, v) :: rest, n => if k = n then some v else lookupName rest n

/-- A definition added to a list; a name defined twice or misspelt is refused (log 16). -/
def defineName (names : List (Name × Int)) (n : Name) (v : Int) : Except AsmError (List (Name × Int)) :=
  if validName n then
    match lookupName names n with
    | some _ => .error (.duplicateName n)
    | none => .ok ((n, v) :: names)
  else .error (.badName n)

/-! ## Operands -/

/-- A name's value, or a refusal. -/
def nameValue (names : List (Name × Int)) (n : Name) : Except AsmError Int :=
  match lookupName names n with
  | some v => .ok v
  | none => .error (.undefinedName n)

/-- The number a value operand stands for (R282). -/
def Value.eval (names : List (Name × Int)) : Value → Except AsmError Int
  | .int n => .ok n
  | .chr text =>
    match characterCode text with
    | .ok c => .ok c
    | .error e => .error e
  | .name n => nameValue names n

/-- The number if it lies in the range of the field; a refusal otherwise (D25). -/
def inField (lo hi n : Int) : Except AsmError Int := if lo ≤ n ∧ n ≤ hi then .ok n else .error (.outOfRange n)

/-- A value operand in the range of its field. -/
def Value.inField (names : List (Name × Int)) (lo hi : Int) (v : Value) : Except AsmError Int :=
  match v.eval names with
  | .ok n => Sys2Proof.Machine.inField lo hi n
  | .error e => .error e

/-- A value operand as a 16-bit pattern (R283, R308): -32768 to 65535 (log 16). -/
def Value.word (names : List (Name × Int)) (v : Value) : Except AsmError Word :=
  match v.inField names (-32768) 65535 with
  | .ok n => .ok (BitVec.ofInt 16 n)
  | .error e => .error e

/-! ## Expansions -/

/-- SET(d, V): SETLO with the low byte, then SETHI with the high byte; always two instructions (R283). -/
def setWords (d : Reg) (v : Word) : List Instr := [.setlo d (v.extractLsb' 0 8), .sethi d (v.extractLsb' 8 8)]

/-- CON() is FON(0x08) (R289). -/
def conInstr : Instr := .fon 0x08#5

/-- COFF() is FOFF(0x08) (R290). -/
def coffInstr : Instr := .foff 0x08#5

/-- FLAGS(a): COFF(), ADD(R0, a, R0) (R293). -/
def flagsInstrs (a : Reg) : List Instr := [coffInstr, .add 0 a 0]

/-- CMP(a, b): CON(), SUB(R0, a, b) (R286). -/
def cmpInstrs (a b : Reg) : List Instr := [conInstr, .sub 0 a b]

/-- The short CMP an assembler may offer "if they can ensure that this shorter definition will only be used when the
carry-block is set" (R319); a parameter of the tool, off by default (U25, `ToolOptions.shortCmpAt`). -/
def shortCmpInstrs (a b : Reg) : List Instr := [.sub 0 a b]

/-- NEG(d, b): CON(), SUB(d, R0, b) (R287). -/
def negInstrs (d b : Reg) : List Instr := [conInstr, .sub d 0 b]

/-- NOT(d, b): SET(R11, 0xffff), XOR(d, R11, b) (R288). -/
def notInstrs (d b : Reg) : List Instr := setWords Reg.rt 0xFFFF#16 ++ [Instr.xor d Reg.rt b]

/-- A machine instruction's word, if its operands are in range (D25). -/
def instrWord (i : Instr) : Except AsmError (List Word) :=
  if i.wellFormed then .ok [encode i] else .error (.outOfRange 0)

/-- The word of an instruction built from a value operand in its range. -/
def valueWord (names : List (Name × Int)) (lo hi : Int) (v : Value) (build : Int → Instr) :
    Except AsmError (List Word) :=
  match v.inField names lo hi with
  | .ok n => .ok [encode (build n)]
  | .error e => .error e

/-- The distance that a name gives a relative branch at address `at_`: to the label of that name (R298), or, where no label
has it, the value that CONSTANT or DLABEL gave it (R282, R306). DESIGN CHOICE (log 16): a label goes first, and the distance
to it is the plain difference of the two addresses, not taken modulo 2^16. -/
def relativeDistance (names labels : List (Name × Int)) (at_ : Nat) (l : Name) : Except AsmError Int :=
  match lookupName labels l with
  | some a => inField (-128) 127 (a - at_)
  | none => (Value.name l).inField names (-128) 127

/-- The words a statement puts into instruction memory at address `at_` (R283 to R303, R317 to R319). DESIGN CHOICE (log 16):
BR(L) and CALL(a, L) encode a label's address modulo 2^16, so a label past the last cell, at 65536, is address 0 there. -/
def Stmt.words (names labels : List (Name × Int)) (at_ : Nat) : Stmt → Except AsmError (List Word)
  | .machine i => instrWord i
  | .setlo d v => valueWord names (-128) 255 v (fun n => .setlo d (BitVec.ofInt 8 n))
  | .sethi d v => valueWord names (-128) 255 v (fun n => .sethi d (BitVec.ofInt 8 n))
  | .inc d v => valueWord names 1 64 v (fun n => .inc d n.toNat)
  | .dec d v => valueWord names 1 64 v (fun n => .dec d n.toNat)
  | .fon v => valueWord names 0 31 v (fun n => .fon (BitVec.ofInt 5 n))
  | .foff v => valueWord names 0 31 v (fun n => .foff (BitVec.ofInt 5 n))
  | .fset5 v => valueWord names 0 31 v (fun n => .fset5 (BitVec.ofInt 5 n))
  | .fset4 v => valueWord names 0 15 v (fun n => .fset4 (BitVec.ofInt 5 n))
  | .load d o b => valueWord names 0 31 o (fun n => .load d n.toNat b)
  | .store d o b => valueWord names 0 31 o (fun n => .store d n.toNat b)
  | .relative cond o => valueWord names (-128) 127 o (fun n => cond.relativeBranch n)
  | .swi i => valueWord names 0 15 i (fun n => .swi n.toNat)
  | .set d v =>
    match v.word names with
    | .ok w => .ok ((setWords d w).map encode)
    | .error e => .error e
  | .setrf d v =>
    match v.word names with
    | .ok w => .ok ((setWords d w ++ flagsInstrs d).map encode)
    | .error e => .error e
  | .move a b => .ok [encode (.or a b 0)]
  | .cmp a b => .ok ((cmpInstrs a b).map encode)
  | .shortCmp a b => .ok ((shortCmpInstrs a b).map encode)
  | .neg d b => .ok ((negInstrs d b).map encode)
  | .not d b => .ok ((notInstrs d b).map encode)
  | .con => .ok [encode conInstr]
  | .coff => .ok [encode coffInstr]
  | .cbon => .ok [encode (.fon 0x10#5)]
  | .ccboff => .ok [encode (.foff 0x18#5)]
  | .flags a => .ok ((flagsInstrs a).map encode)
  | .opcode n =>
    match n.word names with
    | .ok w => .ok [w]
    | .error e => .error e
  | .label _ => .ok []
  | .branchTo cond l =>
    match nameValue labels l with
    | .ok a => .ok ((setWords Reg.rt (BitVec.ofInt 16 a) ++ [cond.registerBranch Reg.rt]).map encode)
    | .error e => .error e
  | .relativeTo cond l =>
    match relativeDistance names labels at_ l with
    | .ok o => .ok [encode (cond.relativeBranch o)]
    | .error e => .error e
  | .nop => .ok [encode (.brr 1)]
  | .halt => .ok [encode (.brr 0)]
  | .callTo a l =>
    match nameValue labels l with
    | .ok t => .ok ((setWords Reg.pcRet (BitVec.ofInt 16 t) ++ [Instr.call a Reg.pcRet]).map encode)
    | .error e => .error e
  | .constant _ _ => .ok []
  | .dlabel _ => .ok []
  | .integer _ => .ok []
  | .lpString _ => .ok []
  | .dskip _ => .ok []

/-- How many words a statement puts into instruction memory, known before its labels are (R296). -/
def Stmt.size : Stmt → Nat
  | .machine _ | .setlo _ _ | .sethi _ _ | .inc _ _ | .dec _ _ | .fon _ | .foff _ | .fset5 _ | .fset4 _ => 1
  | .load _ _ _ | .store _ _ _ | .relative _ _ | .swi _ | .move _ _ | .shortCmp _ _ => 1
  | .con | .coff | .cbon | .ccboff | .opcode _ | .relativeTo _ _ | .nop | .halt => 1
  | .set _ _ | .cmp _ _ | .neg _ _ | .flags _ => 2
  | .not _ _ | .branchTo _ _ | .callTo _ _ => 3
  | .setrf _ _ => 4
  | .label _ | .constant _ _ | .dlabel _ | .integer _ | .lpString _ | .dskip _ => 0

/-- The data cells of a statement from the counter's address up, and how far the counter moves (R306 to R310). DESIGN CHOICE
(log 16): DSKIP takes 0 to 65535, a range the spec does not give. -/
def Stmt.cells (names : List (Name × Int)) : Stmt → Except AsmError (List Word × Nat)
  | .integer v =>
    match v.word names with
    | .ok w => .ok ([w], 1)
    | .error e => .error e
  | .lpString text =>
    match stringCodes text with
    | .ok codes => .ok ((codes.length :: codes).map (BitVec.ofNat 16), codes.length + 1)
    | .error e => .error e
  | .dskip v =>
    match v.inField names 0 65535 with
    | .ok n => .ok ([], n.toNat)
    | .error e => .error e
  | _ => .ok ([], 0)

/-! ## What tools may do otherwise -/

/-- A data statement, a data label or a constant (R306 to R310). -/
def Stmt.isData : Stmt → Bool
  | .constant _ _ | .dlabel _ | .integer _ | .lpString _ | .dskip _ => true
  | _ => false

/-- All data statements precede all instructions and instruction labels, as tools "may require" (R313). -/
def dataFirst (program : List Stmt) : Bool := (program.dropWhile Stmt.isData).all (fun st => !st.isData)

/-- The operand convention of CALL and RETURN, which assemblers "may reject" departures from (R304); the hardware accepts
any registers. -/
def followsCallConvention : Instr → Bool
  | .call a _ => a == Reg.fpAlt
  | .ret a b => a == Reg.fpAlt && b == Reg.pcRet
  | _ => true

/-- The operand convention of CALL and RETURN in a statement (R304). -/
def Stmt.followsCallConvention : Stmt → Bool
  | .machine i => Sys2Proof.Machine.followsCallConvention i
  | .callTo a _ => a == Reg.fpAlt
  | _ => true

/-- A branch to a register or by a distance, which tools that support "branches only to labels" do not take (R305). -/
def instrIsBranch : Instr → Bool
  | .call _ _ | .ret _ _ => false
  | i => instrMovesPc i

/-- Every branch of the program is to one of its labels (R305). -/
def branchesOnlyToLabels (program : List Stmt) : Bool :=
  program.all fun st =>
    match st with
    | .machine i => !instrIsBranch i
    | .relative _ _ => false
    | .relativeTo _ l => decide (Stmt.label l ∈ program)
    | _ => true

/-- The parameters of an assembler: what the source lets tools do or not do. None changes what a word does. -/
structure ToolOptions where
  /-- CODE_BASE (R312, U26) -/
  codeBase : Nat
  /-- DATA_BASE (R312, U26) -/
  dataBase : Nat
  /-- whether to refuse a CALL or RETURN outside the operand convention (R304, U22) -/
  requireCallConvention : Bool
  /-- whether to refuse a branch that is not to a label (R305, U23) -/
  requireLabels : Bool
  /-- whether to refuse a program with data after instructions (R313, U24) -/
  requireDataFirst : Bool
  /-- the short CMP (R319, U25): whether the tool can ensure that carry-block is on at the statement of a number, the first
  being 0, and so makes a CMP there the short one; that it ensures it is the tool's duty -/
  shortCmpAt : Nat → Bool

/-- The parameters at the values of this spec: the bases of D22, no refusal that is allowed and not required, and the
two-word CMP throughout (U25: default off). -/
def ToolOptions.standard : ToolOptions :=
  { codeBase := Config.codeBase
    dataBase := Config.dataBase
    requireCallConvention := false
    requireLabels := false
    requireDataFirst := false
    shortCmpAt := fun _ => false }

/-- What the parameters of the tool refuse. -/
def ToolOptions.accepts (o : ToolOptions) (program : List Stmt) : Bool :=
  (!o.requireCallConvention || program.all Stmt.followsCallConvention) &&
  (!o.requireLabels || branchesOnlyToLabels program) &&
  (!o.requireDataFirst || dataFirst program)

/-- The program from statement number n on with the short CMP where the tool uses it (R319). -/
def shortenCmps (shortAt : Nat → Bool) : Nat → List Stmt → List Stmt
  | _, [] => []
  | n, .cmp a b :: rest => (if shortAt n then .shortCmp a b else .cmp a b) :: shortenCmps shortAt (n + 1) rest
  | n, st :: rest => st :: shortenCmps shortAt (n + 1) rest

/-! ## The two passes and the loader -/

/-- Where the assembler stands: the code and data counters and the names defined so far (R295 to R296, R306, R307). -/
structure Layout where
  /-- address of the next instruction word -/
  code : Nat
  /-- address of the next data cell -/
  data : Nat
  /-- values of CONSTANT and DLABEL names -/
  values : List (Name × Int)
  /-- addresses of LABEL names, a name space of their own (log 16) -/
  labels : List (Name × Int)
  deriving DecidableEq, Repr

/-- The names a statement defines, and the counters after it. DESIGN CHOICE (log 16): the values of CONSTANT and DSKIP, on which
the first pass rests, use only names that CONSTANT or DLABEL defined before them, and DSKIP takes 0 to 65535; a LABEL or DLABEL
after the last cell of its address space has the address 65536. -/
def Layout.add (l : Layout) (st : Stmt) : Except AsmError Layout :=
  match st with
  | .label n =>
    match defineName l.labels n l.code with
    | .ok ls => .ok { l with labels := ls }
    | .error e => .error e
  | .dlabel n =>
    match defineName l.values n l.data with
    | .ok vs => .ok { l with values := vs }
    | .error e => .error e
  | .constant n v =>
    match v.eval l.values with
    | .error e => .error e
    | .ok k =>
      match defineName l.values n k with
      | .ok vs => .ok { l with values := vs }
      | .error e => .error e
  | .dskip v =>
    match v.inField l.values 0 65535 with
    | .ok n => .ok { l with data := l.data + n.toNat }
    | .error e => .error e
  | .integer _ => .ok { l with data := l.data + 1 }
  | .lpString text =>
    match stringCodes text with
    | .ok codes => .ok { l with data := l.data + codes.length + 1 }
    | .error e => .error e
  | _ => .ok { l with code := l.code + st.size }

/-- The first pass: every name and the counters at the end. -/
def Layout.scan (l : Layout) : List Stmt → Except AsmError Layout
  | [] => .ok l
  | st :: rest =>
    match l.add st with
    | .ok l' => l'.scan rest
    | .error e => .error e

/-- What the assembler produces: "a pair of sequences of values, one for the data memory, and one for the instruction
memory" (R314), with their addresses. -/
structure Image where
  /-- the instruction words, the first at the code base -/
  code : List Word
  /-- the initialised data cells with their addresses -/
  data : List Cell
  deriving DecidableEq, Repr

/-- Words given addresses from `a` up. -/
def addressed (a : Nat) : List Word → List Cell
  | [] => []
  | w :: rest => (a, w) :: addressed (a + 1) rest

/-- The second pass: words and cells, in textual order (R312). -/
def emit (values labels : List (Name × Int)) (code data : Nat) : List Stmt → Except AsmError Image
  | [] => .ok { code := [], data := [] }
  | st :: rest =>
    match st.words values labels code, st.cells values with
    | .ok ws, .ok (cs, moved) =>
      match emit values labels (code + ws.length) (data + moved) rest with
      | .ok img => .ok { code := ws ++ img.code, data := addressed data cs ++ img.data }
      | .error e => .error e
    | .error e, _ => .error e
    | _, .error e => .error e

/-- The assembler, with the code and data placed at the bases given (R312, R314). -/
def assembleAt (codeBase dataBase : Nat) (program : List Stmt) : Except AsmError Image :=
  match Layout.scan { code := codeBase, data := dataBase, values := [], labels := [] } program with
  | .error e => .error e
  | .ok l =>
    if l.code ≤ 65536 ∧ l.data ≤ 65536 then emit l.values l.labels codeBase dataBase program
    else .error .pastTheEnd

/-- The assembler with its parameters as an argument (R304, R305, R312, R313, R319). -/
def assembleWith (o : ToolOptions) (program : List Stmt) : Except AsmError Image :=
  if o.accepts program then assembleAt o.codeBase o.dataBase (shortenCmps o.shortCmpAt 0 program)
  else .error .notAccepted

/-- The assembler with its parameters at the values of this spec, the bases those of the HERA-C system and Hassem (R312,
D22). -/
def assemble (program : List Stmt) : Except AsmError Image := assembleWith .standard program

/-- Cells written into a memory, in order. -/
def Memory.writeAll : Memory → List Cell → Memory
  | m, [] => m
  | m, (a, v) :: rest => Memory.writeAll (m.write a v) rest

/-- The loader (R314, R403): an image's code placed from `codeBase` up and its data cells filled, before the run (log 2). -/
def State.load (s : State) (codeBase : Nat) (img : Image) : State :=
  { s with imem := s.imem.writeAll (addressed codeBase img.code), dmem := s.dmem.writeAll img.data }

/-- The start state of a program with the flags given (R39, R403). -/
def State.startWith (flags : Flags) (img : Image) : State := (State.start flags).load Config.codeBase img

end Sys2Proof.Machine
end

