-- ==== Sys2Proof/Machine/Conventions.lean ====
section
/-! DEFINITION. The software conventions of Part II of the source (49_conventions.md, R340 to R356) as statement lists and
predicates. The hardware enforces none of them (R340); nothing the machine does depends on this file. -/

namespace Sys2Proof.Machine

/-! ## Registers -/

/-- Called functions preserve R12 to R15 under the caller-save convention (R341, R348). -/
def preservedCallerSave (r : Reg) : Bool := decide (12 ≤ r.val)

/-- Called functions preserve R4 to R7 and R12 to R15 under the hybrid convention (R352). -/
def preservedHybrid (r : Reg) : Bool := (decide (4 ≤ r.val) && decide (r.val ≤ 7)) || decide (12 ≤ r.val)

/-! ## Arithmetic idioms -/

/-- `[dh dl] := [ah al] + [bh bl]` with carry-block off (R343; ADD_DP of R315). -/
def addDouble (dh dl ah al bh bl : Reg) : List Instr := [coffInstr, .add dl al bl, .add dh ah bh]

/-- `[dh dl] := [ah al] - [bh bl]` with carry-block off (R343; SUB_DP of R315). -/
def subDouble (dh dl ah al bh bl : Reg) : List Instr := [conInstr, .sub dl al bl, .sub dh ah bh]

/-- The 32-bit signed product by the two defined modes of MUL (R137). -/
def mulDouble (dh dl a b : Reg) : List Instr := [.fset5 0x00#5, .mul dl a b, .fset5 0x01#5, .mul dh a b]

/-- Doubling the 32-bit value [rh rl] (R167). -/
def doubleWord (rh rl : Reg) : List Instr := [coffInstr, .lsl rl rl, .lsl rh rh]

/-- Halving the unsigned 32-bit value [rh rl] (R167). -/
def halveWord (rh rl : Reg) : List Instr := [coffInstr, .lsr rh rh, .lsr rl rl]

/-- Halving the signed 32-bit value [rh rl] (R167). -/
def halveSignedWord (rh rl : Reg) : List Instr := [.asr rh rh, .lsr rl rl]

/-! ## The stack and the frame -/

/-- Cell FP + 0 of a frame: the return address, the control link (R345, C6). -/
def frameReturnAddress : Nat := 0

/-- Cell FP + 1: the caller's frame pointer, the dynamic link (R345, C6). -/
def frameDynamicLink : Nat := 1

/-- Cell FP + 2: the enclosing function's frame pointer, the static link (R345). -/
def frameStaticLink : Nat := 2

/-- Cell of parameter n, counted from 1; the return value replaces parameter 1 (R345). -/
def frameParameter (n : Nat) : Nat := 2 + n

/-- The number of cells of the current frame, SP - FP (R344). -/
def State.frameSize (s : State) : Word := s.readReg Reg.sp - s.readReg Reg.fp

/-- INC(SP, n): n cells allocated (R344). -/
def allocate (n : Nat) : Stmt := .machine (.inc Reg.sp n)

/-- DEC(SP, n): n cells released (R344). -/
def release (n : Nat) : Stmt := .machine (.dec Reg.sp n)

/-- Save R13 and R12 in the frame (R349, R351). -/
def saveLinks : List Stmt :=
  [.machine (.store Reg.pcRet frameReturnAddress Reg.fp), .machine (.store Reg.fpAlt frameDynamicLink Reg.fp)]

/-- Reload R13 and R12 from the frame (R347, R349, R351). -/
def restoreLinks : List Stmt :=
  [.machine (.load Reg.pcRet frameReturnAddress Reg.fp), .machine (.load Reg.fpAlt frameDynamicLink Reg.fp)]

/-- RETURN(FP_alt, PC_ret) (R304, R347). -/
def returnStmt : Stmt := .machine (.ret Reg.fpAlt Reg.pcRet)

/-! ## Calling conventions -/

/-- A call with parameters in registers (R346, R348). -/
def callWithRegisters (f : Name) : List Stmt := [.move Reg.fpAlt Reg.sp, .callTo Reg.fpAlt f]

/-- A function with parameters in registers that calls others: `frame` cells, links saved (R349). -/
def functionWithRegisters (f : Name) (frame : Nat) (body : List Stmt) : List Stmt :=
  [.label f, allocate frame] ++ saveLinks ++ body ++ restoreLinks ++ [release frame, returnStmt]

/-- A call with parameters on the stack, taken from registers (R350); a static link, if any, is the register given. -/
def callWithStack (f : Name) (params : List Reg) (staticLink : Option Reg) : List Stmt :=
  [.move Reg.fpAlt Reg.sp, allocate (3 + params.length)]
    ++ params.mapIdx (fun k r => .machine (.store r (frameParameter (k + 1)) Reg.fpAlt))
    ++ (match staticLink with
        | some r => [.machine (.store r frameStaticLink Reg.fpAlt)]
        | none => [])
    ++ [.callTo Reg.fpAlt f]

/-- A function with `params` parameters on the stack that saves the registers given (R351). -/
def functionWithStack (f : Name) (params : Nat) (saved : List Reg) (body : List Stmt) : List Stmt :=
  let slot (k : Nat) : Nat := frameParameter (params + 1 + k)
  [.label f, allocate saved.length] ++ saveLinks
    ++ saved.mapIdx (fun k r => .machine (.store r (slot k) Reg.fp))
    ++ body
    ++ saved.mapIdx (fun k r => .machine (.load r (slot k) Reg.fp))
    ++ restoreLinks ++ [release saved.length, returnStmt]

end Sys2Proof.Machine
end

