-- ==== Sys2Proof/Machine/OnPlatform.lean ====
section
/-! DEFINITION. The step and the loader with HARVARD and INTERRUPT_MODEL as arguments (R6, D13, D15, D20; log 20). With this
spec's values the step is `Machine.step`. -/

namespace Sys2Proof.Machine

/-- What a hardware signal does where the platform takes it; without an INTERRUPT_MODEL there is no hardware interrupt
(D20). -/
def takeSignal {σ : Type} (p : Platform σ) (signal : Option Nat) (s : State) (own : σ) : Option (State × σ) :=
  match p.interrupts, signal with
  | some m, some n => m.signal n s own
  | _, _ => none

/-- An outcome of the machine with the platform's own state as it was. -/
def keepingOwn {σ : Type} (own : σ) : Result → Host.Outcome (State × σ) Fault Refusal
  | .next t => .next (t, own)
  | .fault r => .fault r
  | .refused r => .refused r

/-- An instruction on a platform: SWI and RTI as its INTERRUPT_MODEL says, every other instruction as ever. -/
def execOn {σ : Type} (p : Platform σ) (i : Instr) (s : State) (own : σ) : Host.Outcome (State × σ) Fault Refusal :=
  match i with
  | .swi n => swiOn p n s own
  | .rti => rtiOn p s own
  | j => keepingOwn own (exec j s)

/-- One step on a platform, with the hardware signal asserted before it, if any. -/
def stepOn {σ : Type} (p : Platform σ) (signal : Option Nat) (s : State) (own : σ) :
    Host.Outcome (State × σ) Fault Refusal :=
  match takeSignal p signal s own with
  | some next => .next next
  | none =>
    match p.fetch s own with
    | none => .fault .fetchOutsideProgram
    | some w =>
      match decode w with
      | .error u => .fault (.unassignedEncoding u)
      | .ok i => execOn p i s own

/-- The loader on a platform: with a unified memory the code goes into the one memory that there is (R51). DESIGN CHOICE
(log 20): there the data cells are written after the code, so where an image's code and data share an address the data
stands; the spec gives no rule for it (R51, U8). -/
def State.loadOn {σ : Type} (p : Platform σ) (s : State) (codeBase : Nat) (img : Image) : State :=
  if p.harvard then s.load codeBase img
  else { s with dmem := (s.dmem.writeAll (addressed codeBase img.code)).writeAll img.data }

end Sys2Proof.Machine
end

