-- ==== Sys2Proof/Certificates/Slice0/Obligations.lean ====
section
/-! DEFINITION. The statements for the provers. Each says in its docstring which rule of spec/ it formalises. Values and
flags are written out from the rules' pseudocode, not with the model's own computations. That the next address PC + 1 is taken
modulo 2^16 is the spec's decision D5 (log 15) wherever it stands. -/

section

open Sys2Proof Sys2Proof.Machine

/-! ## SETLO and SETHI -/

/-- R120: SETLO's word, and its effect: the signed byte in the register, no flag written; the write to R0 is discarded. -/
def Obligations.SetloLoadsSignedByte : Prop :=
  ∀ (s : State) (d : Reg) (v : BitVec 8),
    DecodesTo (0xE000 + 256 * d.val + v.toNat) (.setlo d v) ∧
    Completes (.setlo d v) s d (BitVec.ofInt 16 v.toInt) s.flags (s.pc + 1#16)

/-- R121: SETHI's word, and its effect: the byte in bits 15:8, the old bits 7:0 kept, no flag written. -/
def Obligations.SethiReplacesHighByte : Prop :=
  ∀ (s : State) (d : Reg) (v : BitVec 8),
    DecodesTo (0xF000 + 256 * d.val + v.toNat) (.sethi d v) ∧
    Completes (.sethi d v) s d (BitVec.ofNat 16 (256 * v.toNat + (s.readReg d).toNat % 256)) s.flags (s.pc + 1#16)

/-- R122: SETLO and then SETHI leave any 16-bit value in the register and change nothing else but the PC, by 2. For R0 the
register reads 0 as ever. The spec derives this from R120 and R121. -/
def Obligations.SetloSethiSequenceLoadsAnyWord : Prop :=
  ∀ (s : State) (d : Reg) (v : Word), ∃ t,
    execAll [.setlo d (BitVec.ofNat 8 v.toNat), .sethi d (BitVec.ofNat 8 (v.toNat / 256))] s = .next t ∧
    WritesOnly d v s t ∧ t.flags = s.flags ∧ t.pc = s.pc + 2#16 ∧ SameMemories s t

/-! ## Arithmetic and bit-wise instructions -/

/-- R131, R132, R133 (and R130): the words and effects of AND, OR and XOR: s and z from the value, v, c and carry-block
kept. -/
def Obligations.BitwiseOperationsComplete : Prop :=
  ∀ (s : State) (d a b : Reg),
    let x := s.readReg a
    let y := s.readReg b
    let keep (r : Word) : Flags := { s.flags with s := r.getLsbD 15, z := r == 0#16 }
    DecodesTo (0x8000 + 256 * d.val + 16 * a.val + b.val) (.and d a b) ∧
    Completes (.and d a b) s d (x &&& y) (keep (x &&& y)) (s.pc + 1#16) ∧
    DecodesTo (0x9000 + 256 * d.val + 16 * a.val + b.val) (.or d a b) ∧
    Completes (.or d a b) s d (x ||| y) (keep (x ||| y)) (s.pc + 1#16) ∧
    DecodesTo (0xD000 + 256 * d.val + 16 * a.val + b.val) (.xor d a b) ∧
    Completes (.xor d a b) s d (x ^^^ y) (keep (x ^^^ y)) (s.pc + 1#16)

/-- R134: ADD's word and effect: the sum with the unblocked incoming carry, c its carry out of bit 15, v its signed
overflow; and the rule's equivalent bit formula for v. That the incoming carry counts in c and v is the spec's decision D7
(log 15). -/
def Obligations.AddSumsWithUnblockedCarry : Prop :=
  ∀ (s : State) (d a b : Reg),
    let x := s.readReg a
    let y := s.readReg b
    let cin : Nat := if s.flags.c = true ∧ s.flags.cb = false then 1 else 0
    let r : Word := BitVec.ofNat 16 (x.toNat + y.toNat + cin)
    DecodesTo (0xA000 + 256 * d.val + 16 * a.val + b.val) (.add d a b) ∧
    Completes (.add d a b) s d r
      { cb := s.flags.cb, c := decide (65536 ≤ x.toNat + y.toNat + cin),
        v := decide (x.toInt + y.toInt + (cin : Int) ≠ r.toInt), z := r == 0#16, s := r.getLsbD 15 }
      (s.pc + 1#16) ∧
    (x.toInt + y.toInt + (cin : Int) ≠ r.toInt ↔
      x.getLsbD 15 = y.getLsbD 15 ∧ r.getLsbD 15 ≠ x.getLsbD 15)

/-- R135: SUB's word and effect: the difference less the unblocked incoming borrow, c the absence of a borrow, v the signed
overflow; and the rule's equivalent formulation as an addition. That the incoming borrow counts in c and v is the spec's
decision D7 (log 15), and that c is set on equal operands its correction C2. -/
def Obligations.SubSubtractsWithUnblockedBorrow : Prop :=
  ∀ (s : State) (d a b : Reg),
    let x := s.readReg a
    let y := s.readReg b
    let bin : Nat := if s.flags.c = false ∧ s.flags.cb = false then 1 else 0
    let diff : Int := (x.toNat : Int) - (y.toNat : Int) - (bin : Int)
    let r : Word := BitVec.ofInt 16 diff
    let sum : Nat := x.toNat + (~~~y).toNat + (1 - bin)
    DecodesTo (0xB000 + 256 * d.val + 16 * a.val + b.val) (.sub d a b) ∧
    Completes (.sub d a b) s d r
      { cb := s.flags.cb, c := decide (0 ≤ diff),
        v := decide (x.toInt - y.toInt - (bin : Int) ≠ r.toInt), z := r == 0#16, s := r.getLsbD 15 }
      (s.pc + 1#16) ∧
    r = BitVec.ofNat 16 sum ∧ (0 ≤ diff ↔ 65536 ≤ sum) ∧
    (x.toInt - y.toInt - (bin : Int) ≠ r.toInt ↔
      x.getLsbD 15 ≠ y.getLsbD 15 ∧ r.getLsbD 15 ≠ x.getLsbD 15)

/-- R136, R137: MUL's word and its three modes by the five flags before it. LOW (F = 0x10 to 0x1F, or 0x00): bits 15:0 of
the product. HIGH (F = 0x01): bits 31:16 of the 32-bit signed product, v and c some values, left open by the spec's
decision D10 (log 6). Every other F (0x02 to 0x0F): no defined result, a fault by its decision D11 (log 7). -/
def Obligations.MulModesByFlags : Prop :=
  ∀ (s : State) (d a b : Reg),
    let x := s.readReg a
    let y := s.readReg b
    let low : Word := BitVec.ofNat 16 (x.toNat * y.toNat)
    let high : Word := (x.signExtend 32 * y.signExtend 32).extractLsb' 16 16
    DecodesTo (0xC000 + 256 * d.val + 16 * a.val + b.val) (.mul d a b) ∧
    (s.flags.toBits = 0x00#5 ∨ 0x10#5 ≤ s.flags.toBits →
      Completes (.mul d a b) s d low
        { cb := s.flags.cb, c := decide (65536 ≤ x.toNat * y.toNat),
          v := decide (x.toInt * y.toInt ≠ low.toInt), z := low == 0#16, s := low.getLsbD 15 }
        (s.pc + 1#16)) ∧
    (s.flags.toBits = 0x01#5 →
      ∃ (v c : Bool) (t : State), exec (.mul d a b) s = .next t ∧ WritesOnly d high s t ∧
        t.flags = { cb := false, c := c, v := v, z := high == 0#16, s := high.getLsbD 15 } ∧
        t.pc = s.pc + 1#16 ∧ SameMemories s t) ∧
    (0x02#5 ≤ s.flags.toBits ∧ s.flags.toBits ≤ 0x0F#5 → exec (.mul d a b) s = .fault .mulUndefinedFlags)

/-- R137, its last sentence: FSET5(0x00), MUL(lo, a, b), FSET5(0x01), MUL(hi, a, b) leave the 32-bit signed product of two
registers in a pair. -/
def Obligations.MulSequenceGivesSignedProduct : Prop :=
  ∀ (s : State) (hi lo a b : Reg), hi ≠ 0 → lo ≠ 0 → hi ≠ lo → lo ≠ a → lo ≠ b → ∃ t,
    execAll [.fset5 0x00#5, .mul lo a b, .fset5 0x01#5, .mul hi a b] s = .next t ∧
    (t.readReg hi ++ t.readReg lo : BitVec 32) = BitVec.ofInt 32 ((s.readReg a).toInt * (s.readReg b).toInt) ∧
    (∀ r : Reg, r ≠ hi → r ≠ lo → t.readReg r = s.readReg r) ∧ SameMemories s t ∧ t.pc = s.pc + 4#16

/-- R150: INC's word and effect, the incoming carry not used. The last clause, v true exactly when the old bit 15 is 0 and the
new one is 1, the spec derives from the rule's pseudocode. -/
def Obligations.IncAddsItsAmount : Prop :=
  ∀ (s : State) (d : Reg) (amount : Nat), 1 ≤ amount → amount ≤ 64 →
    let x := s.readReg d
    let r : Word := BitVec.ofNat 16 (x.toNat + amount)
    DecodesTo (0x3080 + 256 * d.val + (amount - 1)) (.inc d amount) ∧
    Completes (.inc d amount) s d r
      { cb := s.flags.cb, c := decide (65536 ≤ x.toNat + amount),
        v := decide (x.toInt + (amount : Int) ≠ r.toInt), z := r == 0#16, s := r.getLsbD 15 }
      (s.pc + 1#16) ∧
    (x.toInt + (amount : Int) ≠ r.toInt ↔ x.getLsbD 15 = false ∧ r.getLsbD 15 = true)

/-- R151: DEC's word and effect, the incoming borrow not used. The last clause, v true exactly when the old bit 15 is 1 and the
new one is 0, the spec derives from the rule's pseudocode. -/
def Obligations.DecSubtractsItsAmount : Prop :=
  ∀ (s : State) (d : Reg) (amount : Nat), 1 ≤ amount → amount ≤ 64 →
    let x := s.readReg d
    let r : Word := BitVec.ofInt 16 ((x.toNat : Int) - (amount : Int))
    DecodesTo (0x30C0 + 256 * d.val + (amount - 1)) (.dec d amount) ∧
    Completes (.dec d amount) s d r
      { cb := s.flags.cb, c := decide (amount ≤ x.toNat),
        v := decide (x.toInt - (amount : Int) ≠ r.toInt), z := r == 0#16, s := r.getLsbD 15 }
      (s.pc + 1#16) ∧
    (x.toInt - (amount : Int) ≠ r.toInt ↔ x.getLsbD 15 = true ∧ r.getLsbD 15 = false)

/-- R134 ("When carry-block is true, no other flag values matter"), R136, R165: with carry-block on, ADD, SUB, MUL and ASL
answer the same whatever the other four flags were. -/
def Obligations.BlockedArithmeticIgnoresOtherFlags : Prop :=
  ∀ (s : State) (f : Flags) (d a b : Reg), s.flags.cb = true → f.cb = true →
    exec (.add d a b) (s.withFlags f) = exec (.add d a b) s ∧
    exec (.sub d a b) (s.withFlags f) = exec (.sub d a b) s ∧
    exec (.mul d a b) (s.withFlags f) = exec (.mul d a b) s ∧
    exec (.asl d b) (s.withFlags f) = exec (.asl d b) s

/-! ## Shifts -/

/-- R161, R162: the words and effects of LSL and LSR as arithmetic on the unsigned value: doubled or halved, the unblocked
carry entering at the other end, c the bit shifted out; v and carry-block kept. -/
def Obligations.LogicalShiftsMoveOneBit : Prop :=
  ∀ (s : State) (d b : Reg),
    let x := s.readReg b
    let cin : Nat := if s.flags.c = true ∧ s.flags.cb = false then 1 else 0
    let left : Word := BitVec.ofNat 16 (2 * x.toNat + cin)
    let right : Word := BitVec.ofNat 16 (x.toNat / 2 + 32768 * cin)
    DecodesTo (0x3000 + 256 * d.val + b.val) (.lsl d b) ∧
    Completes (.lsl d b) s d left
      { cb := s.flags.cb, c := decide (32768 ≤ x.toNat), v := s.flags.v, z := left == 0#16, s := left.getLsbD 15 }
      (s.pc + 1#16) ∧
    DecodesTo (0x3010 + 256 * d.val + b.val) (.lsr d b) ∧
    Completes (.lsr d b) s d right
      { cb := s.flags.cb, c := decide (x.toNat % 2 = 1), v := s.flags.v, z := right == 0#16, s := right.getLsbD 15 }
      (s.pc + 1#16)

/-- R163, R164: the words and effects of LSL8 and LSR8: multiplied or divided by 256, zeros entering whatever the flags; v,
c and carry-block kept, and s false after LSR8. -/
def Obligations.ByteShiftsMoveEightBits : Prop :=
  ∀ (s : State) (d b : Reg),
    let x := s.readReg b
    let left : Word := BitVec.ofNat 16 (256 * x.toNat)
    let right : Word := BitVec.ofNat 16 (x.toNat / 256)
    DecodesTo (0x3020 + 256 * d.val + b.val) (.lsl8 d b) ∧
    Completes (.lsl8 d b) s d left { s.flags with z := left == 0#16, s := left.getLsbD 15 } (s.pc + 1#16) ∧
    DecodesTo (0x3030 + 256 * d.val + b.val) (.lsr8 d b) ∧
    Completes (.lsr8 d b) s d right { s.flags with z := right == 0#16, s := false } (s.pc + 1#16)

/-- R165: ASL's word and effect: the value and c of LSL; v true exactly when doubling the signed value does not fit, which
is bit 15 xor bit 14. The rule gives v as that of ADD(d, b, b); both readings of it here the spec derives from R134. -/
def Obligations.AslDoublesAndReportsOverflow : Prop :=
  ∀ (s : State) (d b : Reg),
    let x := s.readReg b
    let cin : Nat := if s.flags.c = true ∧ s.flags.cb = false then 1 else 0
    let r : Word := BitVec.ofNat 16 (2 * x.toNat + cin)
    DecodesTo (0x3040 + 256 * d.val + b.val) (.asl d b) ∧
    Completes (.asl d b) s d r
      { cb := s.flags.cb, c := decide (32768 ≤ x.toNat),
        v := decide (2 * x.toInt < -32768 ∨ 32767 < 2 * x.toInt), z := r == 0#16, s := r.getLsbD 15 }
      (s.pc + 1#16) ∧
    (2 * x.toInt < -32768 ∨ 32767 < 2 * x.toInt ↔ x.getLsbD 15 ≠ x.getLsbD 14)

/-- R160, R165: "v receives the value it would have after ADD(d, b, b)"; the value and the other flags agree too, so ASL
answers what that ADD answers. -/
def Obligations.AslAgreesWithAddOfItself : Prop :=
  ∀ (s : State) (d b : Reg), exec (.asl d b) s = exec (.add d b b) s

/-- R166: ASR's word and effect: half of the signed value, rounded toward minus infinity, c the bit lost, whatever the
incoming carry; v and carry-block kept. The rounding of odd values is the spec's decision D28 (log 15). -/
def Obligations.AsrHalvesTheSignedValue : Prop :=
  ∀ (s : State) (d b : Reg),
    let x := s.readReg b
    let r : Word := BitVec.ofInt 16 (x.toInt / 2)
    DecodesTo (0x3050 + 256 * d.val + b.val) (.asr d b) ∧
    Completes (.asr d b) s d r
      { cb := s.flags.cb, c := decide (x.toNat % 2 = 1), v := s.flags.v, z := r == 0#16, s := x.getLsbD 15 }
      (s.pc + 1#16) ∧
    r.toInt = x.toInt / 2

/-- R167: with carry-block off, COFF, LSL, LSL double a 32-bit value in a pair; COFF, LSR, LSR halve it as unsigned; ASR,
LSR halve it as signed. The sequences are the spec's own illustration, derived from its shift rules. -/
def Obligations.ShiftPairsChainThroughCarry : Prop :=
  ∀ (s : State) (h l : Reg), h ≠ 0 → l ≠ 0 → h ≠ l → s.flags.cb = false →
    let x : BitVec 32 := s.readReg h ++ s.readReg l
    (∃ t, execAll (doubleWord h l) s = .next t ∧ (t.readReg h ++ t.readReg l : BitVec 32) = x + x) ∧
    (∃ t, execAll (halveWord h l) s = .next t ∧
      (t.readReg h ++ t.readReg l : BitVec 32) = BitVec.ofNat 32 (x.toNat / 2)) ∧
    (∃ t, execAll (halveSignedWord h l) s = .next t ∧
      (t.readReg h ++ t.readReg l : BitVec 32) = BitVec.ofInt 32 (x.toInt / 2))

/-! ## Flag instructions -/

/-- R180, R181: SAVEF writes the flags into bits 4:0 and zero above, RSTRF reads all five from bits 4:0 and changes no
register. The zeros, and that SAVEF changes no flag, are the spec's decision D8, that RSTRF ignores bits 15:5 its decision D9
(log 15). -/
def Obligations.SavefAndRstrfMoveTheFlags : Prop :=
  ∀ (s : State) (d : Reg),
    let x := s.readReg d
    DecodesTo (0x3070 + 256 * d.val) (.savef d) ∧
    Completes (.savef d) s d
      (BitVec.ofNat 16 (16 * s.flags.cb.toNat + 8 * s.flags.c.toNat + 4 * s.flags.v.toNat + 2 * s.flags.z.toNat
        + s.flags.s.toNat)) s.flags (s.pc + 1#16) ∧
    DecodesTo (0x3078 + 256 * d.val) (.rstrf d) ∧
    CompletesWithoutRegister (.rstrf d) s
      { cb := x.getLsbD 4, c := x.getLsbD 3, v := x.getLsbD 2, z := x.getLsbD 1, s := x.getLsbD 0 } (s.pc + 1#16)

/-- R181: SAVEF(d) followed later by RSTRF(d), with x[d] unchanged in between and d not 0, restores F exactly; RSTRF(R0)
clears all five. -/
def Obligations.RstrfRestoresWhatSavefSaved : Prop :=
  ∀ (s : State) (d : Reg), ∃ t, exec (.savef d) s = .next t ∧
    ∀ u : State, u.readReg d = t.readReg d → ∃ w, exec (.rstrf d) u = .next w ∧
      w.flags = if d = 0 then { cb := false, c := false, v := false, z := false, s := false } else s.flags

/-- R182, R183, R186: FON and FOFF, flag by flag: bit i of the immediate names flag F_i; the others are kept. -/
def Obligations.FonAndFoffSwitchNamedFlags : Prop :=
  ∀ (s : State) (v : BitVec 5),
    let f := s.flags
    DecodesTo (0x3060 + 256 * (v.toNat / 16) + v.toNat % 16) (.fon v) ∧
    CompletesWithoutRegister (.fon v) s
      { cb := if v.getLsbD 4 then true else f.cb, c := if v.getLsbD 3 then true else f.c,
        v := if v.getLsbD 2 then true else f.v, z := if v.getLsbD 1 then true else f.z,
        s := if v.getLsbD 0 then true else f.s } (s.pc + 1#16) ∧
    DecodesTo (0x3860 + 256 * (v.toNat / 16) + v.toNat % 16) (.foff v) ∧
    CompletesWithoutRegister (.foff v) s
      { cb := if v.getLsbD 4 then false else f.cb, c := if v.getLsbD 3 then false else f.c,
        v := if v.getLsbD 2 then false else f.v, z := if v.getLsbD 1 then false else f.z,
        s := if v.getLsbD 0 then false else f.s } (s.pc + 1#16)

/-- R184: FSET5's word and effect: all five flags from the immediate, bit i giving flag F_i. -/
def Obligations.Fset5SetsAllFiveFlags : Prop :=
  ∀ (s : State) (v : BitVec 5),
    DecodesTo (0x3460 + 256 * (v.toNat / 16) + v.toNat % 16) (.fset5 v) ∧
    CompletesWithoutRegister (.fset5 v) s
      { cb := v.getLsbD 4, c := v.getLsbD 3, v := v.getLsbD 2, z := v.getLsbD 1, s := v.getLsbD 0 } (s.pc + 1#16)

/-- R185, R96: FSET4's word and effect: the four flags other than carry-block from bits 3:0 of the immediate. That bit 4 of
the word's immediate has no effect is the spec's decision D18 (log 15). -/
def Obligations.Fset4KeepsCarryBlock : Prop :=
  ∀ (s : State) (v : BitVec 5),
    DecodesTo (0x3C60 + 256 * (v.toNat / 16) + v.toNat % 16) (.fset4 v) ∧
    CompletesWithoutRegister (.fset4 v) s
      { cb := s.flags.cb, c := v.getLsbD 3, v := v.getLsbD 2, z := v.getLsbD 1, s := v.getLsbD 0 } (s.pc + 1#16)

/-! ## Memory -/

/-- R200, R201, R65: LOAD's word and effect: the cell at base plus offset modulo 2^16; s and z from it, v, c and
carry-block kept. The wrap of the address is the spec's decision D6 (log 15). That LOAD completes also for a cell that nothing
has stored to or loaded, with a free value, is the model's choice (log 5, DESIGN CHOICE) of the two treatments that decision
D24 allows. -/
def Obligations.LoadReadsTheAddressedCell : Prop :=
  ∀ (s : State) (d b : Reg) (o : Nat), o ≤ 31 →
    let r := s.readData (BitVec.ofNat 16 ((s.readReg b).toNat + o))
    DecodesTo (0x4000 + 4096 * (o / 16) + 256 * d.val + 16 * (o % 16) + b.val) (.load d o b) ∧
    Completes (.load d o b) s d r { s.flags with z := r == 0#16, s := r.getLsbD 15 } (s.pc + 1#16)

/-- R200, R202, R65: STORE's word and effect: the cell at the effective address receives the register; every other cell,
every register and every flag is as before. The wrap of the address is the spec's decision D6 (log 15). -/
def Obligations.StoreWritesTheAddressedCellOnly : Prop :=
  ∀ (s : State) (d b : Reg) (o : Nat), o ≤ 31 →
    let ea := s.effectiveAddress o b
    ea = s.readReg b + BitVec.ofNat 16 o ∧
    DecodesTo (0x6000 + 4096 * (o / 16) + 256 * d.val + 16 * (o % 16) + b.val) (.store d o b) ∧
    ∃ t, exec (.store d o b) s = .next t ∧ t.readData ea = s.readReg d ∧
      (∀ a : Word, a ≠ ea → t.readData a = s.readData a) ∧ SameRegisters s t ∧ t.flags = s.flags ∧
      t.pc = s.pc + 1#16 ∧ t.imem = s.imem ∧ t.draws = s.draws

/-- R58, R63: a LOAD returns the value of the latest STORE to its cell, and of no other cell: after a STORE, a LOAD of any
cell gives the stored value exactly when the addresses are the same. One agent in program order is the spec's decision D16
(logs 13 and 15), and addresses are the same modulo 2^16 by its decision D6 (log 15). The model's choices: a cell that nothing
has stored to or loaded reads as a free value fixed for the run (log 5, DESIGN CHOICE; D24), and an offset beyond 31, which no
word encodes, counts as the number it is (log 4, DESIGN CHOICE). -/
def Obligations.LoadAfterStore : Prop :=
  ∀ (s : State) (d b e k : Reg) (o p : Nat), ∃ t u,
    exec (.store d o b) s = .next t ∧ exec (.load e p k) t = .next u ∧
    u.readReg e = if e = 0 then 0#16
      else if s.readReg k + BitVec.ofNat 16 p = s.readReg b + BitVec.ofNat 16 o then s.readReg d
      else s.readData (s.readReg k + BitVec.ofNat 16 p)

/-- R63: MemWrite makes the cell equal to the value and changes nothing else; MemRead gives the latest value. -/
def Obligations.MemoryWriteChangesOneCell : Prop :=
  ∀ (s : State) (a v k : Word),
    (s.writeData a v).readData k = (if k = a then v else s.readData k) ∧
    (s.writeData a v).regs = s.regs ∧ (s.writeData a v).pc = s.pc ∧ (s.writeData a v).flags = s.flags ∧
    (s.writeData a v).imem = s.imem

/-- R52: of all instructions only STORE changes a data cell; and no instruction changes instruction memory (R37, R61), which is
the spec's decision D15 (HARVARD true; log 14, unsafe for a unified memory) over the model's field for it (log 2, DESIGN
CHOICE). -/
def Obligations.OnlyStoreChangesMemory : Prop :=
  ∀ (i : Instr) (s t : State), exec i s = .next t →
    t.imem = s.imem ∧ ((∀ d o b, i ≠ .store d o b) → ∀ a : Word, t.readData a = s.readData a)

/-! ## Branches -/

/-- R213 to R219: the words and effects of the seven register-mode branches on signed and unsigned order: taken by the
rule's flag expression, to the address in the register; nothing else changes. -/
def Obligations.RegisterBranchesOnOrder : Prop :=
  ∀ (s : State) (b : Reg),
    let f := s.flags
    let p := s.readReg b
    DecodesTo (0x1000 + b.val) (.br b) ∧ BranchCompletes (.br b) s true p ∧
    DecodesTo (0x1200 + b.val) (.bl b) ∧ BranchCompletes (.bl b) s (f.s != f.v) p ∧
    DecodesTo (0x1300 + b.val) (.bge b) ∧ BranchCompletes (.bge b) s (f.s == f.v) p ∧
    DecodesTo (0x1400 + b.val) (.ble b) ∧ BranchCompletes (.ble b) s (f.s != f.v || f.z) p ∧
    DecodesTo (0x1500 + b.val) (.bg b) ∧ BranchCompletes (.bg b) s (f.s == f.v && !f.z) p ∧
    DecodesTo (0x1600 + b.val) (.bule b) ∧ BranchCompletes (.bule b) s (!f.c || f.z) p ∧
    DecodesTo (0x1700 + b.val) (.bug b) ∧ BranchCompletes (.bug b) s (f.c && !f.z) p

/-- R220 to R227: the words and effects of the eight register-mode branches on one flag. -/
def Obligations.RegisterBranchesOnOneFlag : Prop :=
  ∀ (s : State) (b : Reg),
    let f := s.flags
    let p := s.readReg b
    DecodesTo (0x1800 + b.val) (.bz b) ∧ BranchCompletes (.bz b) s f.z p ∧
    DecodesTo (0x1900 + b.val) (.bnz b) ∧ BranchCompletes (.bnz b) s (!f.z) p ∧
    DecodesTo (0x1A00 + b.val) (.bc b) ∧ BranchCompletes (.bc b) s f.c p ∧
    DecodesTo (0x1B00 + b.val) (.bnc b) ∧ BranchCompletes (.bnc b) s (!f.c) p ∧
    DecodesTo (0x1C00 + b.val) (.bs b) ∧ BranchCompletes (.bs b) s f.s p ∧
    DecodesTo (0x1D00 + b.val) (.bns b) ∧ BranchCompletes (.bns b) s (!f.s) p ∧
    DecodesTo (0x1E00 + b.val) (.bv b) ∧ BranchCompletes (.bv b) s f.v p ∧
    DecodesTo (0x1F00 + b.val) (.bnv b) ∧ BranchCompletes (.bnv b) s (!f.v) p

/-- R228 to R234: the words and effects of the seven relative branches on order: the target is the branch's own address
plus the signed distance, modulo 2^16. The wrap is the spec's decision D5 (log 15). -/
def Obligations.RelativeBranchesOnOrder : Prop :=
  ∀ (s : State) (o : Int), -128 ≤ o → o ≤ 127 →
    let f := s.flags
    let p := BitVec.ofInt 16 ((s.pc.toNat : Int) + o)
    DecodesTo (0x0000 + distanceField o) (.brr o) ∧ BranchCompletes (.brr o) s true p ∧
    DecodesTo (0x0200 + distanceField o) (.blr o) ∧ BranchCompletes (.blr o) s (f.s != f.v) p ∧
    DecodesTo (0x0300 + distanceField o) (.bger o) ∧ BranchCompletes (.bger o) s (f.s == f.v) p ∧
    DecodesTo (0x0400 + distanceField o) (.bler o) ∧ BranchCompletes (.bler o) s (f.s != f.v || f.z) p ∧
    DecodesTo (0x0500 + distanceField o) (.bgr o) ∧ BranchCompletes (.bgr o) s (f.s == f.v && !f.z) p ∧
    DecodesTo (0x0600 + distanceField o) (.buler o) ∧ BranchCompletes (.buler o) s (!f.c || f.z) p ∧
    DecodesTo (0x0700 + distanceField o) (.bugr o) ∧ BranchCompletes (.bugr o) s (f.c && !f.z) p

/-- R235 to R242: the words and effects of the eight relative branches on one flag. The wrap of the target is the spec's
decision D5 (log 15). -/
def Obligations.RelativeBranchesOnOneFlag : Prop :=
  ∀ (s : State) (o : Int), -128 ≤ o → o ≤ 127 →
    let f := s.flags
    let p := BitVec.ofInt 16 ((s.pc.toNat : Int) + o)
    DecodesTo (0x0800 + distanceField o) (.bzr o) ∧ BranchCompletes (.bzr o) s f.z p ∧
    DecodesTo (0x0900 + distanceField o) (.bnzr o) ∧ BranchCompletes (.bnzr o) s (!f.z) p ∧
    DecodesTo (0x0A00 + distanceField o) (.bcr o) ∧ BranchCompletes (.bcr o) s f.c p ∧
    DecodesTo (0x0B00 + distanceField o) (.bncr o) ∧ BranchCompletes (.bncr o) s (!f.c) p ∧
    DecodesTo (0x0C00 + distanceField o) (.bsr o) ∧ BranchCompletes (.bsr o) s f.s p ∧
    DecodesTo (0x0D00 + distanceField o) (.bnsr o) ∧ BranchCompletes (.bnsr o) s (!f.s) p ∧
    DecodesTo (0x0E00 + distanceField o) (.bvr o) ∧ BranchCompletes (.bvr o) s f.v p ∧
    DecodesTo (0x0F00 + distanceField o) (.bnvr o) ∧ BranchCompletes (.bnvr o) s (!f.v) p

/-- R244: after CMP(a, b), which is CON and SUB(R0, a, b), the flags are those of the exact difference, and each branch
condition says how the operands compare, whatever the flags were before. The spec derives this from R135 and R210. -/
def Obligations.ConditionsAfterCompare : Prop :=
  ∀ (s : State) (a b : Reg), ∃ t, execAll [.fon 0x08#5, .sub 0 a b] s = .next t ∧
    let x := s.readReg a
    let y := s.readReg b
    SameRegisters s t ∧ SameMemories s t ∧ t.pc = s.pc + 2#16 ∧ t.flags.cb = s.flags.cb ∧
    condTaken .z t.flags = decide (x = y) ∧ condTaken .nz t.flags = decide (x ≠ y) ∧
    condTaken .c t.flags = decide (y.toNat ≤ x.toNat) ∧ condTaken .nc t.flags = decide (x.toNat < y.toNat) ∧
    condTaken .ule t.flags = decide (x.toNat ≤ y.toNat) ∧ condTaken .ug t.flags = decide (y.toNat < x.toNat) ∧
    condTaken .l t.flags = decide (x.toInt < y.toInt) ∧ condTaken .ge t.flags = decide (y.toInt ≤ x.toInt) ∧
    condTaken .le t.flags = decide (x.toInt ≤ y.toInt) ∧ condTaken .g t.flags = decide (y.toInt < x.toInt) ∧
    condTaken .s t.flags = (x - y).getLsbD 15 ∧ condTaken .ns t.flags = !(x - y).getLsbD 15 ∧
    condTaken .v t.flags = decide (x.toInt - y.toInt ≠ (x - y).toInt) ∧
    condTaken .nv t.flags = decide (x.toInt - y.toInt = (x - y).toInt)

/-- R243, R406: where the PC holds the address of a word 0x0000 the run ends in that very state, however many steps are
allowed, and every state reached afterwards is the same state. What ends a run is the spec's decision D17 (log 12). -/
def Obligations.HaltEndsTheRun : Prop :=
  ∀ s : State, s.fetch = some 0x0000#16 →
    step s = .next s ∧ (∀ k : Nat, run k s = .halted s) ∧ (∀ t : State, Reaches s t → t = s)

/-- R243, R97: the word 0x0001 is NOP: PC + 1 and nothing else. -/
def Obligations.NopOnlyAdvances : Prop :=
  ∀ s : State, s.fetch = some 0x0001#16 → step s = .next { s with pc := s.pc + 1#16 }

/-- R25: an instruction that is no branch, CALL or RETURN and has a next state ends with PC + 1 modulo 2^16. The wrap is the
spec's decision D5 (log 15). -/
def Obligations.OtherInstructionsAdvanceByOne : Prop :=
  ∀ (i : Instr) (s t : State), instrMovesPc i = false → exec i s = .next t →
    t.pc = BitVec.ofNat 16 ((s.pc.toNat + 1) % 65536)

/-! ## CALL, RETURN, SWI, RTI -/

/-- R260, R261: CALL's and RETURN's words and their one effect for operands that do not collide: PC and x[b], FP and x[a]
exchanged at once, the return address PC + 1; flags and memory as before. The wrap of PC + 1 is the spec's decision D5, that
RETURN's bit 8 does nothing its decision D18 (log 15). -/
def Obligations.CallAndReturnExchange : Prop :=
  ∀ (s : State) (a b : Reg), (a = b → a = 0) → b ≠ 14 →
    DecodesTo (0x2000 + 16 * a.val + b.val) (.call a b) ∧
    DecodesTo (0x2100 + 16 * a.val + b.val) (.ret a b) ∧
    ∃ t, exec (.call a b) s = .next t ∧ exec (.ret a b) s = .next t ∧
      t.pc = s.readReg b ∧
      (b ≠ 0 → t.readReg b = s.pc + 1#16) ∧
      (a ≠ 14 → t.readReg 14 = s.readReg a) ∧
      (a ≠ 0 → t.readReg a = s.readReg 14) ∧
      t.readReg 0 = 0#16 ∧
      (∀ r : Reg, r ≠ a → r ≠ b → r ≠ 14 → t.readReg r = s.readReg r) ∧
      t.flags = s.flags ∧ SameMemories s t ∧ t.draws = s.draws

/-- R262: with a = b not 0, or b = 14, CALL and RETURN have no defined result; 30 of the 256 operand pairs. The fault
is the spec's decision D14 (log 8). -/
def Obligations.CollidingCallsHaveNoResult : Prop :=
  (∀ (s : State) (a b : Reg), (a = b ∧ a ≠ 0) ∨ b = 14 →
    exec (.call a b) s = .fault .callRegisterCollision ∧ exec (.ret a b) s = .fault .callRegisterCollision) ∧
  (Finset.univ.filter (fun p : Reg × Reg => (p.1 = p.2 ∧ p.1 ≠ 0) ∨ p.2 = 14)).card = 30

/-- R261: a RETURN whose two registers hold what the CALL left there goes to the instruction after the CALL with the
caller's FP. The wrap of PC + 1 in both is the spec's decision D5 (log 15). With a or b R0 the values are lost (R260), so
those pairs have no such statement. -/
def Obligations.ReturnUndoesCall : Prop :=
  ∀ (s : State) (a b : Reg), a ≠ 0 → b ≠ 0 → a ≠ b → b ≠ 14 → ∃ t, exec (.call a b) s = .next t ∧
    ∀ u : State, u.readReg a = t.readReg a → u.readReg b = t.readReg b → ∃ w, exec (.ret a b) u = .next w ∧
      w.pc = s.pc + 1#16 ∧ w.readReg 14 = s.readReg 14 ∧ w.readReg b = u.pc + 1#16 ∧
      w.readReg a = u.readReg 14

/-- R263, R264: SWI and RTI are decoded, and with INTERRUPT_MODEL absent each stops with the fault InterruptOpcode in every
state; neither is a no-op. The stop is the spec's decision D13 (log 9, DEDUCED). -/
def Obligations.InterruptCodesStopWithAFault : Prop :=
  ∀ (s : State) (i : Nat), i ≤ 15 →
    DecodesTo (0x2200 + i) (.swi i) ∧ exec (.swi i) s = .fault .interruptOpcode ∧
    DecodesTo 0x2300 .rti ∧ exec .rti s = .fault .interruptOpcode

/-! ## Whole-machine rules -/

/-- R31: carry-block "is written only by RSTRF, FON, FOFF and FSET5". -/
def Obligations.OnlyFourInstructionsWriteCarryBlock : Prop :=
  ∀ (i : Instr) (s t : State), exec i s = .next t →
    (∀ d, i ≠ .rstrf d) → (∀ v, i ≠ .fon v) → (∀ v, i ≠ .foff v) → (∀ v, i ≠ .fset5 v) →
    t.flags.cb = s.flags.cb

/-- R32: the flag table: a flag the table does not mark for an instruction keeps its value. SAVEF's row is the spec's decision
D8 (log 15). -/
def Obligations.FlagTableIsRespected : Prop :=
  ∀ (i : Instr) (s t : State), exec i s = .next t → SameFlagsOutside (flagsWritten i) s.flags t.flags

/-- R27, R28: the fifteen instructions of R27 set s to bit 15 of the value they produce and z to whether it is zero: for a
destination other than R0 that value is the destination register afterwards. -/
def Obligations.SignAndZeroDescribeTheResult : Prop :=
  ∀ (i : Instr) (s t : State) (d a b : Reg) (n o : Nat), d ≠ 0 →
    i ∈ [Instr.and d a b, .or d a b, .xor d a b, .add d a b, .sub d a b, .mul d a b, .inc d n, .dec d n, .lsl d b,
      .lsr d b, .lsl8 d b, .lsr8 d b, .asl d b, .asr d b, .load d o b] →
    exec i s = .next t →
    t.flags.s = (t.readReg d).getLsbD 15 ∧ t.flags.z = (t.readReg d == 0#16)

/-- The "reads none" lines of the instruction rules (R120, R121, R131 to R133, R150, R151, R163, R164, R166, R181 to R185, R201,
R202, R213, R228, R260, R261), R31: an instruction outside the list of those that read
flags gives the same registers, memories, PC and written flags from states that differ in their flags alone. -/
def Obligations.FlagsDoNotReachOtherResults : Prop :=
  ∀ (i : Instr) (s t : State) (f : Flags), readsFlags i = false → exec i s = .next t →
    ∃ u, exec i (s.withFlags f) = .next u ∧ SameRegisters t u ∧ SameMemories t u ∧ u.pc = t.pc ∧
      SameFlagsInside (flagsWritten i) u.flags t.flags

/-- R21: R0 reads as 0 in every state, also in one whose register slot were to hold something else, and a write to it
changes nothing. -/
def Obligations.RegisterZeroIsHardWired : Prop :=
  ∀ (s : State) (v : Word), s.readReg 0 = 0#16 ∧ s.writeReg 0 v = s

/-- R370, R371: the complete list of the cases in which a step has no next state, each with its kind; and no step is
refused. That these cases are faults rests on the spec's decisions D11 to D14 and D23 (logs 7 to 11). R371's list has one case
more, LoadUninitialised, "if the model takes that reading of DMEM_INIT"; that this model takes the other reading of decision
D24, and so has no such stop, is its own choice (log 5, DESIGN CHOICE). -/
def Obligations.CompleteListOfStops : Prop :=
  ∀ (s : State) (r : Fault),
    (step s = .fault r ↔
      (s.fetch = none ∧ r = .fetchOutsideProgram) ∨
      ∃ w, s.fetch = some w ∧
        ((∃ u, decode w = .error u ∧ r = .unassignedEncoding u) ∨
         (∃ d a b, decode w = .ok (.mul d a b) ∧ s.flags.cb = false ∧
            (s.flags.c = true ∨ s.flags.v = true ∨ s.flags.z = true) ∧ r = .mulUndefinedFlags) ∨
         (∃ a b, (decode w = .ok (.call a b) ∨ decode w = .ok (.ret a b)) ∧ ((a = b ∧ a ≠ 0) ∨ b = 14) ∧
            r = .callRegisterCollision) ∨
         ((decode w = .ok .rti ∨ ∃ i, decode w = .ok (.swi i)) ∧ r = .interruptOpcode))) ∧
    ∀ q : Refusal, step s ≠ .refused q

/-- R405: the step fetches the word at the PC, decodes it and applies the one rule that matches (the spec's decision D26,
log 15). -/
def Obligations.StepRunsTheDecodedInstruction : Prop :=
  ∀ (s : State) (w : Word) (i : Instr), s.imem.read? s.pc.toNat = some w → decode w = .ok i → step s = exec i s

/-- R64, R371: a fetch outside the program comes before everything; an unassigned word before any operand case. Both faults are the
spec's decisions D23 and D12 (logs 10 and 11). -/
def Obligations.FetchAndDecodeComeFirst : Prop :=
  ∀ s : State,
    (s.imem.read? s.pc.toNat = none → step s = .fault .fetchOutsideProgram) ∧
    ∀ (w : Word) (u : UnassignedSet), s.imem.read? s.pc.toNat = some w → decode w = .error u →
      step s = .fault (.unassignedEncoding u)

/-- The invariant of the state: both memories in canonical form and the zero register's slot zero. Every step from every
state that has it keeps it. The canonical form, addresses strictly rising, is the model's choice (log 1, DESIGN CHOICE) over
the 2^16 cells of R50, and the slot its way to hold R21's register; the spec's rules say neither. -/
def Obligations.StepKeepsTheStateCanonical : Prop :=
  ∀ s t : State, s.wf = true → step s = .next t → t.wf = true

/-- The invariant holds at reset and at every start state, whatever RESET_FLAGS is (R39, R402). The canonical form is the model's
choice (log 1, DESIGN CHOICE), and so is an instruction memory with nothing listed at reset (log 2, DESIGN CHOICE). -/
def Obligations.StartStatesAreCanonical : Prop :=
  State.reset.wf = true ∧ ∀ f : Flags, (State.start f).wf = true

/-- R400, R401: at the start all sixteen registers and the PC are 0, whatever RESET_FLAGS is; the state after reset is such
a start state. Both are the spec's decisions D1 and D2 (log 15). -/
def Obligations.StartClearsRegistersAndPc : Prop :=
  ∀ s : State, (s = State.reset ∨ ∃ f : Flags, s = State.start f) →
    (∀ r : Reg, s.readReg r = 0#16) ∧ s.pc = 0x0000#16

/-! ## Encoding -/

/-- Words written out from the spec's own examples, of every format but INT (R82 to R91), decode to the instructions they stand
for. -/
def Obligations.WorkedWordsDecode : Prop :=
  decode 0xB523#16 = .ok (.sub 5 2 3) ∧ decode 0x3185#16 = .ok (.inc 1 6) ∧ decode 0x3111#16 = .ok (.lsr 1 1) ∧
  decode 0x3165#16 = .ok (.fon 0x15#5) ∧ decode 0x386A#16 = .ok (.foff 0x0A#5) ∧
  decode 0x3C65#16 = .ok (.fset4 0x5#5) ∧ decode 0x3570#16 = .ok (.savef 5) ∧ decode 0x3578#16 = .ok (.rstrf 5) ∧
  decode 0x5732#16 = .ok (.load 7 0x13 2) ∧
  decode 0x130B#16 = .ok (.bge 11) ∧ decode 0x00FC#16 = .ok (.brr (-4)) ∧ decode 0x0303#16 = .ok (.bger 3) ∧
  decode 0x09F8#16 = .ok (.bnzr (-8)) ∧ decode 0x20CD#16 = .ok (.call 12 13) ∧ decode 0x21CD#16 = .ok (.ret 12 13) ∧
  decode 0xE1B6#16 = .ok (.setlo 1 0xB6#8) ∧ decode 0xFBC0#16 = .ok (.sethi 11 0xC0#8)

/-- R82 to R94: decoding the word of any well-formed instruction gives that instruction back, every operand at every value
the encoding admits. -/
def Obligations.DecodeOfEncode : Prop :=
  ∀ i : Instr, i.wellFormed = true → decode (encode i) = .ok i

/-- R94: each word has one meaning: the instruction a word decodes to is well-formed, and the word is its
encoding: no bit of an assigned word is dropped. -/
def Obligations.EncodeOfDecode : Prop :=
  ∀ (w : Word) (i : Instr), decode w = .ok i → i.wellFormed = true ∧ encode i = w

/-- R94: the decoder accepts exactly the words that match a row of the table, as the instruction of that row, and no two
rows overlap. The spec derives the table from its formats. -/
def Obligations.DecoderFollowsTheTable : Prop :=
  (∀ (w : Word) (i : Instr), decode w = .ok i → (encodingRow i).accepts w = true) ∧
  (∀ w : Word, (∃ r ∈ encodingTable, r.accepts w = true) → ∃ i, decode w = .ok i) ∧
  encodingTable.Pairwise (fun p q => ∀ w : Word, ¬ (p.accepts w = true ∧ q.accepts w = true))

/-- R95: the words the decoder turns away are the eight sets, each by its name (the spec's decision D12, log 10). -/
def Obligations.UnassignedWordsAreTheEightSets : Prop :=
  ∀ w : Word,
    let n := w.toNat
    (decode w = .error .uA ↔ 0x0100 ≤ n ∧ n ≤ 0x01FF) ∧
    (decode w = .error .uB ↔ 0x1100 ≤ n ∧ n ≤ 0x11FF) ∧
    (decode w = .error .uC ↔ n / 4096 = 1 ∧ n / 256 % 16 ≠ 1 ∧ n / 16 % 16 ≠ 0) ∧
    (decode w = .error .uD ↔ 0x2210 ≤ n ∧ n ≤ 0x22FF) ∧
    (decode w = .error .uE ↔ 0x2301 ≤ n ∧ n ≤ 0x23FF) ∧
    (decode w = .error .uF ↔ 0x2400 ≤ n ∧ n ≤ 0x2FFF) ∧
    (decode w = .error .uG ↔ n / 4096 = 3 ∧ n / 16 % 16 = 6 ∧ n / 512 % 2 = 1) ∧
    (decode w = .error .uH ↔ n / 4096 = 3 ∧ n / 16 % 16 = 7 ∧ n % 8 ≠ 0)

/-! ## The assembler and the idioms -/

/-- R343: with carry-block off, COFF, ADD, ADD add two 32-bit values in register pairs, with the carry and the signed
overflow of the whole sum; CON, SUB, SUB subtract them. R343 gives the sequences; that c and v describe the whole sum or
difference follows from R134 and R135 with the spec's decision D7, by which the incoming carry or borrow counts in both
(log 15). -/
def Obligations.DoublePrecisionAddAndSubtract : Prop :=
  ∀ (s : State) (dh dl ah al bh bl : Reg), s.flags.cb = false →
    dh ≠ 0 → dl ≠ 0 → dh ≠ dl → dl ≠ ah → dl ≠ bh →
    let x : BitVec 32 := s.readReg ah ++ s.readReg al
    let y : BitVec 32 := s.readReg bh ++ s.readReg bl
    (∃ t, execAll (addDouble dh dl ah al bh bl) s = .next t ∧
      (t.readReg dh ++ t.readReg dl : BitVec 32) = x + y ∧
      t.flags.c = decide (2 ^ 32 ≤ x.toNat + y.toNat) ∧ t.flags.v = decide (x.toInt + y.toInt ≠ (x + y).toInt) ∧
      (∀ r : Reg, r ≠ dh → r ≠ dl → t.readReg r = s.readReg r)) ∧
    (∃ t, execAll (subDouble dh dl ah al bh bl) s = .next t ∧
      (t.readReg dh ++ t.readReg dl : BitVec 32) = x - y ∧
      t.flags.c = decide (y.toNat ≤ x.toNat) ∧ t.flags.v = decide (x.toInt - y.toInt ≠ (x - y).toInt) ∧
      (∀ r : Reg, r ≠ dh → r ≠ dl → t.readReg r = s.readReg r))

/-- R285, R287, R288, R293: what the expansions of MOVE, NEG, NOT and FLAGS compute; NOT uses R11. -/
def Obligations.PseudoOperationsCompute : Prop :=
  ∀ (s : State) (d b : Reg),
    let x := s.readReg b
    (∃ t, execAll [.or d b 0] s = .next t ∧ WritesOnly d x s t) ∧
    (∃ t, execAll (negInstrs d b) s = .next t ∧ WritesOnly d (-x) s t ∧
      t.flags.v = decide (x = 0x8000#16) ∧ t.flags.c = decide (x = 0#16)) ∧
    (∃ t, execAll (notInstrs d b) s = .next t ∧
      (d ≠ 0 → t.readReg d = if b = 11 then 0#16 else ~~~x) ∧
      (d ≠ 11 → t.readReg 11 = 0xFFFF#16) ∧
      (∀ r : Reg, r ≠ d → r ≠ 11 → t.readReg r = s.readReg r)) ∧
    (∃ t, execAll (flagsInstrs b) s = .next t ∧ SameRegisters s t ∧
      t.flags = { cb := s.flags.cb, c := false, v := false, z := x == 0#16, s := x.getLsbD 15 })

/-- R297, R299: a branch to a label at address p is SET(R11, p) and the register-mode branch on R11: it goes to p exactly
when the condition holds on the flags before the three words; R11 holds p either way. -/
def Obligations.BranchToLabelReachesTheLabel : Prop :=
  ∀ (s : State) (cond : Cond) (p : Word), ∃ t,
    execAll (setWords 11 p ++ [cond.registerBranch 11]) s = .next t ∧
    t.pc = (if condTaken cond s.flags then p else s.pc + 3#16) ∧ WritesOnly 11 p s t ∧ t.flags = s.flags ∧
    SameMemories s t

/-- R296, R312: the first pass counts exactly the words the second pass puts out for a statement, so the addresses it gives
to labels are those of the words; and each word of a statement other than OPCODE is an instruction of the machine. -/
def Obligations.AssembledWordsAreCountedAndAssigned : Prop :=
  ∀ (values labels : List (Name × Int)) (position : Nat) (st : Stmt) (ws : List Word),
    st.words values labels position = .ok ws →
    ws.length = st.size ∧ ((∀ n, st ≠ .opcode n) → ∀ w ∈ ws, ∃ i, decode w = .ok i)

/-! ## The platform's parameters -/

/-- R6: with HARVARD and INTERRUPT_MODEL at the spec's values (D13, D15, D20) the step with parameters is the step, whatever
signal is asserted. That the parameters take this form is the model's choice (log 20, DESIGN CHOICE). -/
def Obligations.StandardPlatformIsTheMachine : Prop :=
  Platform.standard.harvard = true ∧
  ∀ (s : State) (signal : Option Nat), stepOn Platform.standard signal s () = keepingOwn () (step s)

end
end

