-- ==== Sys2Proof/Laws/State.lean ====
section
/-! SUPPORT. One lemma per field per update of the state, true by rfl. -/

namespace Sys2Proof.Machine

@[simp] theorem State.withFlags_regs (s : State) (f : Flags) : (s.withFlags f).regs = s.regs := rfl
@[simp] theorem State.withFlags_pc (s : State) (f : Flags) : (s.withFlags f).pc = s.pc := rfl
@[simp] theorem State.withFlags_flags (s : State) (f : Flags) : (s.withFlags f).flags = f := rfl
@[simp] theorem State.withFlags_dmem (s : State) (f : Flags) : (s.withFlags f).dmem = s.dmem := rfl
@[simp] theorem State.withFlags_imem (s : State) (f : Flags) : (s.withFlags f).imem = s.imem := rfl
@[simp] theorem State.withFlags_draws (s : State) (f : Flags) : (s.withFlags f).draws = s.draws := rfl

@[simp] theorem State.jump_regs (s : State) (p : Word) : (s.jump p).regs = s.regs := rfl
@[simp] theorem State.jump_pc (s : State) (p : Word) : (s.jump p).pc = p := rfl
@[simp] theorem State.jump_flags (s : State) (p : Word) : (s.jump p).flags = s.flags := rfl
@[simp] theorem State.jump_dmem (s : State) (p : Word) : (s.jump p).dmem = s.dmem := rfl
@[simp] theorem State.jump_imem (s : State) (p : Word) : (s.jump p).imem = s.imem := rfl
@[simp] theorem State.jump_draws (s : State) (p : Word) : (s.jump p).draws = s.draws := rfl

@[simp] theorem State.advance_regs (s : State) : s.advance.regs = s.regs := rfl
@[simp] theorem State.advance_pc (s : State) : s.advance.pc = s.pc + 1#16 := rfl
@[simp] theorem State.advance_flags (s : State) : s.advance.flags = s.flags := rfl
@[simp] theorem State.advance_dmem (s : State) : s.advance.dmem = s.dmem := rfl
@[simp] theorem State.advance_imem (s : State) : s.advance.imem = s.imem := rfl
@[simp] theorem State.advance_draws (s : State) : s.advance.draws = s.draws := rfl

@[simp] theorem State.writeData_regs (s : State) (a v : Word) : (s.writeData a v).regs = s.regs := rfl
@[simp] theorem State.writeData_pc (s : State) (a v : Word) : (s.writeData a v).pc = s.pc := rfl
@[simp] theorem State.writeData_flags (s : State) (a v : Word) : (s.writeData a v).flags = s.flags := rfl
@[simp] theorem State.writeData_dmem (s : State) (a v : Word) :
    (s.writeData a v).dmem = s.dmem.write a.toNat v := rfl
@[simp] theorem State.writeData_imem (s : State) (a v : Word) : (s.writeData a v).imem = s.imem := rfl
@[simp] theorem State.writeData_draws (s : State) (a v : Word) : (s.writeData a v).draws = s.draws := rfl

@[simp] theorem State.placeInstruction_regs (s : State) (a w : Word) : (s.placeInstruction a w).regs = s.regs := rfl
@[simp] theorem State.placeInstruction_pc (s : State) (a w : Word) : (s.placeInstruction a w).pc = s.pc := rfl
@[simp] theorem State.placeInstruction_flags (s : State) (a w : Word) : (s.placeInstruction a w).flags = s.flags := rfl
@[simp] theorem State.placeInstruction_dmem (s : State) (a w : Word) : (s.placeInstruction a w).dmem = s.dmem := rfl
@[simp] theorem State.placeInstruction_imem (s : State) (a w : Word) :
    (s.placeInstruction a w).imem = s.imem.write a.toNat w := rfl
@[simp] theorem State.placeInstruction_draws (s : State) (a w : Word) : (s.placeInstruction a w).draws = s.draws := rfl

@[simp] theorem State.writeReg_pc (s : State) (r : Reg) (v : Word) : (s.writeReg r v).pc = s.pc := by
  unfold State.writeReg; split <;> rfl
@[simp] theorem State.writeReg_flags (s : State) (r : Reg) (v : Word) : (s.writeReg r v).flags = s.flags := by
  unfold State.writeReg; split <;> rfl
@[simp] theorem State.writeReg_dmem (s : State) (r : Reg) (v : Word) : (s.writeReg r v).dmem = s.dmem := by
  unfold State.writeReg; split <;> rfl
@[simp] theorem State.writeReg_imem (s : State) (r : Reg) (v : Word) : (s.writeReg r v).imem = s.imem := by
  unfold State.writeReg; split <;> rfl
@[simp] theorem State.writeReg_draws (s : State) (r : Reg) (v : Word) : (s.writeReg r v).draws = s.draws := by
  unfold State.writeReg; split <;> rfl
@[simp] theorem State.writeReg_zero (s : State) (v : Word) : s.writeReg 0 v = s := by
  simp [State.writeReg]

@[simp] theorem State.retire_pc (s : State) (d : Reg) (r : Word) (f : Flags) : (s.retire d r f).pc = s.pc + 1#16 := by
  simp [State.retire]
@[simp] theorem State.retire_flags (s : State) (d : Reg) (r : Word) (f : Flags) : (s.retire d r f).flags = f := by
  simp [State.retire]
@[simp] theorem State.retire_dmem (s : State) (d : Reg) (r : Word) (f : Flags) : (s.retire d r f).dmem = s.dmem := by
  simp [State.retire]
@[simp] theorem State.retire_imem (s : State) (d : Reg) (r : Word) (f : Flags) : (s.retire d r f).imem = s.imem := by
  simp [State.retire]
@[simp] theorem State.retire_draws (s : State) (d : Reg) (r : Word) (f : Flags) :
    (s.retire d r f).draws = s.draws := by
  simp [State.retire]
@[simp] theorem State.retire_regs (s : State) (d : Reg) (r : Word) (f : Flags) :
    (s.retire d r f).regs = (s.writeReg d r).regs := by
  simp [State.retire]

@[simp] theorem State.branch_regs (s : State) (b : Bool) (p : Word) : (s.branch b p).regs = s.regs := rfl
@[simp] theorem State.branch_pc (s : State) (b : Bool) (p : Word) :
    (s.branch b p).pc = if b then p else s.pc + 1#16 := rfl
@[simp] theorem State.branch_flags (s : State) (b : Bool) (p : Word) : (s.branch b p).flags = s.flags := rfl
@[simp] theorem State.branch_dmem (s : State) (b : Bool) (p : Word) : (s.branch b p).dmem = s.dmem := rfl
@[simp] theorem State.branch_imem (s : State) (b : Bool) (p : Word) : (s.branch b p).imem = s.imem := rfl
@[simp] theorem State.branch_draws (s : State) (b : Bool) (p : Word) : (s.branch b p).draws = s.draws := rfl

@[simp] theorem State.start_regs (f : Flags) : (State.start f).regs = Vector.replicate 16 0#16 := rfl
@[simp] theorem State.start_pc (f : Flags) : (State.start f).pc = 0#16 := rfl
@[simp] theorem State.start_flags (f : Flags) : (State.start f).flags = f := rfl
@[simp] theorem State.start_dmem (f : Flags) : (State.start f).dmem = [] := rfl
@[simp] theorem State.start_imem (f : Flags) : (State.start f).imem = [] := rfl

end Sys2Proof.Machine
end

