-- ==== Sys2Proof/Laws/Assembler.lean ====
section
/-! SUPPORT. The assembler's parameters: at the spec's values they change nothing (U22 to U26), and the short CMP does what
CMP does where carry-block is on (R319). -/

namespace Sys2Proof.Machine

/-- With the option off no CMP is the short one (U25). -/
theorem shortenCmps_off (program : List Stmt) (n : Nat) : shortenCmps (fun _ => false) n program = program := by
  induction program generalizing n with
  | nil => rfl
  | cons st rest ih => cases st <;> simp [shortenCmps, ih]

/-- At the spec's values the assembler is the two passes at the bases of D22. -/
theorem assemble_eq (program : List Stmt) :
    assemble program = assembleAt Config.codeBase Config.dataBase program := by
  have h : ToolOptions.standard.accepts program = true := rfl
  unfold assemble assembleWith
  rw [if_pos h]
  exact congrArg _ (shortenCmps_off program 0)

/-- CON() turns c on and keeps the other flags (R289). -/
theorem flagsOn_carry (f : Flags) : flagsOn f 0x08#5 = { f with c := true } := by
  obtain ⟨cb, c, v, z, g⟩ := f
  cases cb <;> cases c <;> cases v <;> cases z <;> cases g <;> rfl

/-- What the short CMP leaves: the flags of the difference with the borrow of the state before it (R135, R319). -/
theorem execAll_shortCmp (a b : Reg) (s : State) :
    execAll (shortCmpInstrs a b) s =
      .next (s.retireArith 0 (subArith (s.readReg a) (s.readReg b) s.flags.borrowIn)) := rfl

/-- What CMP leaves: the flags of the difference without a borrow (R286). -/
theorem execAll_cmp (a b : Reg) (s : State) :
    execAll (cmpInstrs a b) s =
      .next (s.retireArith 0 (subArith (s.readReg a) (s.readReg b) false)).advance := by
  have h : execAll (cmpInstrs a b) s = .next ((s.withFlags (flagsOn s.flags 0x08#5)).advance.retireArith 0
      (subArith (s.readReg a) (s.readReg b) (flagsOn s.flags 0x08#5).borrowIn)) := rfl
  rw [h, flagsOn_carry]
  rfl

/-- With carry-block on, CMP leaves what the short CMP leaves, one address further (R319). -/
theorem cmp_eq_shortCmp (a b : Reg) (s : State) (h : s.flags.cb = true) :
    ∃ t, execAll (shortCmpInstrs a b) s = .next t ∧ execAll (cmpInstrs a b) s = .next t.advance := by
  refine ⟨_, execAll_shortCmp a b s, ?_⟩
  rw [execAll_cmp, show s.flags.borrowIn = false by simp [Flags.borrowIn, h]]

end Sys2Proof.Machine
end

