-- ==== Sys2Proof/Laws/Decode.lean ====
section
/-! SUPPORT. The slices of a word built from four 4-bit digits, and what the formats of the encoder put there. -/

namespace Sys2Proof

/-! ## Slices of four digits -/

theorem field_12_4_word4 (a b c d : BitVec 4) : field 12 4 (word4 a b c d) = a := by
  unfold field word4
  apply BitVec.eq_of_getLsbD_eq
  intro i hi
  simp only [BitVec.getLsbD_extractLsb', BitVec.getLsbD_append]
  interval_cases i <;> simp

theorem field_8_4_word4 (a b c d : BitVec 4) : field 8 4 (word4 a b c d) = b := by
  unfold field word4
  apply BitVec.eq_of_getLsbD_eq
  intro i hi
  simp only [BitVec.getLsbD_extractLsb', BitVec.getLsbD_append]
  interval_cases i <;> simp

theorem field_4_4_word4 (a b c d : BitVec 4) : field 4 4 (word4 a b c d) = c := by
  unfold field word4
  apply BitVec.eq_of_getLsbD_eq
  intro i hi
  simp only [BitVec.getLsbD_extractLsb', BitVec.getLsbD_append]
  interval_cases i <;> simp

theorem field_0_4_word4 (a b c d : BitVec 4) : field 0 4 (word4 a b c d) = d := by
  unfold field word4
  apply BitVec.eq_of_getLsbD_eq
  intro i hi
  simp only [BitVec.getLsbD_extractLsb', BitVec.getLsbD_append]
  interval_cases i <;> simp

theorem field_0_8_word4 (a b c d : BitVec 4) : field 0 8 (word4 a b c d) = c ++ d := by
  unfold field word4
  apply BitVec.eq_of_getLsbD_eq
  intro i hi
  simp only [BitVec.getLsbD_extractLsb', BitVec.getLsbD_append]
  interval_cases i <;> simp

theorem field_9_3_word4 (a b c d : BitVec 4) : field 9 3 (word4 a b c d) = b.extractLsb' 1 3 := by
  unfold field word4
  apply BitVec.eq_of_getLsbD_eq
  intro i hi
  simp only [BitVec.getLsbD_extractLsb', BitVec.getLsbD_append]
  interval_cases i <;> simp

theorem field_8_1_word4 (a b c d : BitVec 4) : field 8 1 (word4 a b c d) = b.extractLsb' 0 1 := by
  unfold field word4
  apply BitVec.eq_of_getLsbD_eq
  intro i hi
  simp only [BitVec.getLsbD_extractLsb', BitVec.getLsbD_append]
  interval_cases i
  simp

theorem field_12_1_word4 (a b c d : BitVec 4) : field 12 1 (word4 a b c d) = a.extractLsb' 0 1 := by
  unfold field word4
  apply BitVec.eq_of_getLsbD_eq
  intro i hi
  simp only [BitVec.getLsbD_extractLsb', BitVec.getLsbD_append]
  interval_cases i
  simp

theorem field_7_1_word4 (a b c d : BitVec 4) : field 7 1 (word4 a b c d) = c.extractLsb' 3 1 := by
  unfold field word4
  apply BitVec.eq_of_getLsbD_eq
  intro i hi
  simp only [BitVec.getLsbD_extractLsb', BitVec.getLsbD_append]
  interval_cases i
  simp

theorem field_6_1_word4 (a b c d : BitVec 4) : field 6 1 (word4 a b c d) = c.extractLsb' 2 1 := by
  unfold field word4
  apply BitVec.eq_of_getLsbD_eq
  intro i hi
  simp only [BitVec.getLsbD_extractLsb', BitVec.getLsbD_append]
  interval_cases i
  simp

theorem field_0_6_word4 (a b c d : BitVec 4) : field 0 6 (word4 a b c d) = c.extractLsb' 0 2 ++ d := by
  unfold field word4
  apply BitVec.eq_of_getLsbD_eq
  intro i hi
  simp only [BitVec.getLsbD_extractLsb', BitVec.getLsbD_append]
  interval_cases i <;> simp

theorem field_4_3_word4 (a b c d : BitVec 4) : field 4 3 (word4 a b c d) = c.extractLsb' 0 3 := by
  unfold field word4
  apply BitVec.eq_of_getLsbD_eq
  intro i hi
  simp only [BitVec.getLsbD_extractLsb', BitVec.getLsbD_append]
  interval_cases i <;> simp

theorem field_0_3_word4 (a b c d : BitVec 4) : field 0 3 (word4 a b c d) = d.extractLsb' 0 3 := by
  unfold field word4
  apply BitVec.eq_of_getLsbD_eq
  intro i hi
  simp only [BitVec.getLsbD_extractLsb', BitVec.getLsbD_append]
  interval_cases i <;> simp

theorem field_3_1_word4 (a b c d : BitVec 4) : field 3 1 (word4 a b c d) = d.extractLsb' 3 1 := by
  unfold field word4
  apply BitVec.eq_of_getLsbD_eq
  intro i hi
  simp only [BitVec.getLsbD_extractLsb', BitVec.getLsbD_append]
  interval_cases i
  simp

/-- Four digits agree with another four under a mask digit by digit. -/
theorem word4_and_word4 (a b c d p q r s : BitVec 4) :
    word4 a b c d &&& word4 p q r s = word4 (a &&& p) (b &&& q) (c &&& r) (d &&& s) := by
  unfold word4
  apply BitVec.eq_of_getLsbD_eq
  intro i hi
  simp only [BitVec.getLsbD_and, BitVec.getLsbD_append]
  interval_cases i <;> simp

/-! ## Register fields -/

@[simp] theorem toFin_regBits (r : Reg) : (regBits r).toFin = r := by decide +revert

theorem regField_8_word4 (a c d : BitVec 4) (r : Reg) : regField 8 (word4 a (regBits r) c d) = r := by
  rw [regField, field_8_4_word4, toFin_regBits]

theorem regField_4_word4 (a b d : BitVec 4) (r : Reg) : regField 4 (word4 a b (regBits r) d) = r := by
  rw [regField, field_4_4_word4, toFin_regBits]

theorem regField_0_word4 (a b c : BitVec 4) (r : Reg) : regField 0 (word4 a b c (regBits r)) = r := by
  rw [regField, field_0_4_word4, toFin_regBits]

/-! ## Immediates cut into digits and joined again -/

theorem join_byte (v : BitVec 8) : v.extractLsb' 4 4 ++ v.extractLsb' 0 4 = v := by
  apply BitVec.eq_of_getLsbD_eq
  intro i hi
  simp only [BitVec.getLsbD_extractLsb', BitVec.getLsbD_append]
  interval_cases i <;> simp

theorem join_flags (v : BitVec 5) : v.extractLsb' 4 1 ++ v.extractLsb' 0 4 = v := by
  apply BitVec.eq_of_getLsbD_eq
  intro i hi
  simp only [BitVec.getLsbD_extractLsb', BitVec.getLsbD_append]
  interval_cases i <;> simp

theorem join_amount (x y : BitVec 1) (e : BitVec 6) :
    (x ++ y ++ e.extractLsb' 4 2 : BitVec 4).extractLsb' 0 2 ++ e.extractLsb' 0 4 = e := by
  apply BitVec.eq_of_getLsbD_eq
  intro i hi
  simp only [BitVec.getLsbD_extractLsb', BitVec.getLsbD_append]
  interval_cases i <;> simp

/-! ## Words as numbers -/

/-- The number of two slices put together. -/
theorem toNat_append_add {m n : Nat} (x : BitVec m) (y : BitVec n) : (x ++ y).toNat = x.toNat * 2 ^ n + y.toNat := by
  rw [BitVec.toNat_append, ← Nat.shiftLeft_add_eq_or_of_lt y.isLt, Nat.shiftLeft_eq]

/-- The number of a word from its four digits. -/
theorem ofNat_word4 (a b c d : BitVec 4) :
    BitVec.ofNat 16 (4096 * a.toNat + 256 * b.toNat + 16 * c.toNat + d.toNat) = word4 a b c d := by
  apply BitVec.eq_of_toNat_eq
  simp only [word4, toNat_append_add, BitVec.toNat_ofNat]
  omega

end Sys2Proof
end

