-- ==== Sys2Proof/Laws/Flags.lean ====
section
/-! SUPPORT. The flags as bits and back, and what each flag computation leaves alone. -/

namespace Sys2Proof.Machine

@[simp] theorem Flags.ofBits_toBits (f : Flags) : Flags.ofBits f.toBits = f := by
  obtain ⟨a, b, c, d, e⟩ := f
  revert a b c d e; decide

@[simp] theorem Flags.toBits_ofBits (b : BitVec 5) : (Flags.ofBits b).toBits = b := by
  revert b; decide

@[simp] theorem Flags.withSignZero_cb (f : Flags) (r : Word) : (f.withSignZero r).cb = f.cb := rfl
@[simp] theorem Flags.withSignZero_c (f : Flags) (r : Word) : (f.withSignZero r).c = f.c := rfl
@[simp] theorem Flags.withSignZero_v (f : Flags) (r : Word) : (f.withSignZero r).v = f.v := rfl
@[simp] theorem Flags.withSignZero_s (f : Flags) (r : Word) : (f.withSignZero r).s = r.getLsbD 15 := rfl
@[simp] theorem Flags.withSignZero_z (f : Flags) (r : Word) : (f.withSignZero r).z = (r == 0#16) := rfl
@[simp] theorem Flags.withSignZeroCarry_cb (f : Flags) (r : Word) (c : Bool) :
    (f.withSignZeroCarry r c).cb = f.cb := rfl
@[simp] theorem Flags.withSignZeroCarry_v (f : Flags) (r : Word) (c : Bool) :
    (f.withSignZeroCarry r c).v = f.v := rfl
@[simp] theorem Flags.withArith_cb (f : Flags) (r : ArithResult) : (f.withArith r).cb = f.cb := rfl
@[simp] theorem Flags.withArith_c (f : Flags) (r : ArithResult) : (f.withArith r).c = r.carry := rfl
@[simp] theorem Flags.withArith_v (f : Flags) (r : ArithResult) : (f.withArith r).v = r.overflow := rfl
@[simp] theorem Flags.withArith_s (f : Flags) (r : ArithResult) : (f.withArith r).s = r.value.getLsbD 15 := rfl
@[simp] theorem Flags.withArith_z (f : Flags) (r : ArithResult) : (f.withArith r).z = (r.value == 0#16) := rfl

/-- SAVEF's word read back as flags (R180, R181). -/
@[simp] theorem wordFlags_flagsWord (f : Flags) : wordFlags (flagsWord f) = f := by
  obtain ⟨a, b, c, d, e⟩ := f
  revert a b c d e; decide

/-! ## Carries, borrows and signs as numbers -/

/-- The incoming carry as a number (R33). -/
theorem Flags.carryIn_toNat (f : Flags) : f.carryIn.toNat = if f.c = true ∧ f.cb = false then 1 else 0 := by
  cases h : f.c <;> cases h' : f.cb <;> simp [Flags.carryIn, h, h']

/-- The incoming borrow as a number (R33). -/
theorem Flags.borrowIn_toNat (f : Flags) : f.borrowIn.toNat = if f.c = false ∧ f.cb = false then 1 else 0 := by
  cases h : f.c <;> cases h' : f.cb <;> simp [Flags.borrowIn, h, h']

/-- With carry-block on there is neither a carry nor a borrow (R33). -/
theorem Flags.no_carry_of_blocked {f : Flags} (h : f.cb = true) : f.carryIn = false ∧ f.borrowIn = false := by
  simp [Flags.carryIn, Flags.borrowIn, h]

/-- Bit 15 of a word, as a comparison. -/
theorem bit15_eq_decide (x : Word) : x.getLsbD 15 = decide (32768 ≤ x.toNat) := by
  rw [← BitVec.msb_eq_getLsbD_last x, BitVec.msb_eq_decide]

/-- The signed value of a word (R9). -/
theorem signed_value (x : Word) : x.toInt = if 32768 ≤ x.toNat then (x.toNat : Int) - 65536 else x.toNat := by
  rw [BitVec.toInt_eq_toNat_cond]
  have := x.isLt
  split <;> split <;> omega

/-- The mode of MUL by the flags (R137). -/
theorem mulMode_spec (f : Flags) :
    mulMode f =
      if f.toBits = 0x00#5 ∨ 0x10#5 ≤ f.toBits then .low
      else if f.toBits = 0x01#5 then .high
      else .undefined := by
  obtain ⟨a, b, c, d, e⟩ := f
  revert a b c d e; decide

end Sys2Proof.Machine
end

