-- ==== Sys2Proof/Laws/Ops.lean ====
section
/-! SUPPORT. One spec lemma per shared operation over memory and registers: what it does, once. -/

namespace Sys2Proof.Machine

/-! ## Memory -/

theorem Memory.read?_write (m : Memory) (a k : Nat) (v : Word) :
    (m.write a v).read? k = if k = a then some v else m.read? k := by
  induction m with
  | nil =>
    by_cases h : k = a
    · simp [Memory.write, Memory.read?, h]
    · simp [Memory.write, Memory.read?, h, Ne.symm h]
  | cons c rest ih =>
    obtain ⟨j, u⟩ := c
    by_cases h1 : a < j
    · by_cases h : k = a
      · simp [Memory.write, Memory.read?, h1, h]
      · simp [Memory.write, Memory.read?, h1, h, Ne.symm h]
    · by_cases h2 : a = j
      · subst h2
        by_cases h : k = a
        · simp [Memory.write, Memory.read?, h]
        · simp [Memory.write, Memory.read?, h, Ne.symm h]
      · by_cases h3 : j = k
        · subst h3
          simp [Memory.write, Memory.read?, h1, h2, Ne.symm h2]
        · simp [Memory.write, Memory.read?, h1, h2, h3, ih]

theorem Memory.wfFrom_write (m : Memory) (lo a : Nat) (v : Word) (hlo : lo ≤ a) (ha : a < 65536)
    (h : m.wfFrom lo = true) : (m.write a v).wfFrom lo = true := by
  induction m generalizing lo with
  | nil => simp [Memory.write, Memory.wfFrom, hlo, ha]
  | cons c rest ih =>
    obtain ⟨j, u⟩ := c
    simp only [Memory.wfFrom, Bool.and_eq_true, decide_eq_true_eq] at h
    obtain ⟨⟨hj, hj'⟩, hr⟩ := h
    unfold Memory.write
    split
    · simp only [Memory.wfFrom, Bool.and_eq_true, decide_eq_true_eq]
      exact ⟨⟨hlo, ha⟩, ⟨by omega, hj'⟩, hr⟩
    · split
      · subst j
        simp only [Memory.wfFrom, Bool.and_eq_true, decide_eq_true_eq]
        exact ⟨⟨hlo, ha⟩, hr⟩
      · simp only [Memory.wfFrom, Bool.and_eq_true, decide_eq_true_eq]
        exact ⟨⟨hj, hj'⟩, ih (j + 1) (by omega) hr⟩

/-- Every write of the machine keeps a memory canonical. -/
theorem Memory.wf_write (m : Memory) (a v : Word) (h : m.wf = true) : (m.write a.toNat v).wf = true :=
  Memory.wfFrom_write m 0 a.toNat v (Nat.zero_le _) a.isLt h

theorem Memory.wf_nil : Memory.wf [] = true := rfl

/-- A read after a write: the value at the address written, the old reading elsewhere (R63). -/
theorem State.readData_writeData (s : State) (a k v : Word) :
    (s.writeData a v).readData k = if k = a then v else s.readData k := by
  unfold State.readData
  rw [State.writeData_dmem, Memory.read?_write]
  by_cases h : k = a
  · simp [h]
  · have : ¬ k.toNat = a.toNat := fun e => h (BitVec.eq_of_toNat_eq e)
    simp [h, this]

/-- A data cell reads alike in two states with the same data memory. -/
theorem State.readData_congr {s t : State} (h : t.dmem = s.dmem) (a : Word) : t.readData a = s.readData a := by
  unfold State.readData; rw [h]

/-- With the parameters at this spec's values a fetch reads instruction memory at the PC (R64, D15). -/
theorem State.fetch_eq (s : State) : s.fetch = s.imem.read? s.pc.toNat := rfl

/-- What is fetched depends on instruction memory and the PC alone. -/
theorem State.fetch_congr {s t : State} (hi : t.imem = s.imem) (hp : t.pc = s.pc) : t.fetch = s.fetch := by
  rw [State.fetch_eq, State.fetch_eq, hi, hp]

/-- The word placed at the PC is fetched (log 2). -/
theorem State.fetch_placeInstruction (s : State) (w : Word) : (s.placeInstruction s.pc w).fetch = some w := by
  simp [State.fetch_eq, Memory.read?_write]

/-! ## Registers -/

/-- R0 reads as 0 in every state (R21). -/
@[simp] theorem State.readReg_zero (s : State) : s.readReg 0 = 0#16 := by simp [State.readReg]

/-- A read after a register write: the value in the register written unless it is R0, the old reading elsewhere (R21). -/
theorem State.readReg_writeReg (s : State) (d r : Reg) (v : Word) :
    (s.writeReg d v).readReg r = if r = d ∧ r ≠ 0 then v else s.readReg r := by
  unfold State.readReg State.writeReg
  by_cases hr : r = 0
  · simp [hr]
  · by_cases hd : d = 0
    · subst hd; simp [hr]
    · by_cases h : r = d
      · subst h; simp [hr]
      · have h' : ¬ d.val = r.val := fun e => h (Fin.ext e.symm)
        simp [hr, hd, h, h']

/-- A register reads alike in two states with the same register file. -/
theorem State.readReg_congr {s t : State} (h : t.regs = s.regs) (r : Reg) : t.readReg r = s.readReg r := by
  unfold State.readReg; rw [h]

@[simp] theorem State.readReg_withFlags (s : State) (f : Flags) (r : Reg) :
    (s.withFlags f).readReg r = s.readReg r := rfl
@[simp] theorem State.readReg_jump (s : State) (p : Word) (r : Reg) : (s.jump p).readReg r = s.readReg r := rfl
@[simp] theorem State.readReg_advance (s : State) (r : Reg) : s.advance.readReg r = s.readReg r := rfl
@[simp] theorem State.readReg_branch (s : State) (b : Bool) (p : Word) (r : Reg) :
    (s.branch b p).readReg r = s.readReg r := rfl
@[simp] theorem State.readReg_writeData (s : State) (a v : Word) (r : Reg) :
    (s.writeData a v).readReg r = s.readReg r := rfl

/-- The slot of R0 is written by no register write. -/
theorem State.writeReg_slot_zero (s : State) (d : Reg) (v : Word) : (s.writeReg d v).regs[0] = s.regs[0] := by
  unfold State.writeReg
  by_cases hd : d = 0
  · simp [hd]
  · have h' : ¬ d.val = 0 := fun e => hd (Fin.ext e)
    simp [hd, h']

/-- A register write keeps every data cell. -/
@[simp] theorem State.readData_writeReg (s : State) (d : Reg) (v a : Word) :
    (s.writeReg d v).readData a = s.readData a := State.readData_congr (by simp) a

/-! ## How instructions end -/

/-- What `retire` does to the registers (its other fields are in Laws/State.lean). -/
theorem State.readReg_retire (s : State) (d r : Reg) (v : Word) (f : Flags) :
    (s.retire d v f).readReg r = if r = d ∧ r ≠ 0 then v else s.readReg r := by
  rw [State.retire, State.readReg_advance, State.readReg_withFlags, State.readReg_writeReg]

@[simp] theorem State.readData_retire (s : State) (d : Reg) (v a : Word) (f : Flags) :
    (s.retire d v f).readData a = s.readData a := State.readData_congr (by simp) a

/-- What the exchange of CALL and RETURN does to the PC, when the operands do not collide (R260). -/
@[simp] theorem State.exchange_pc (s : State) (a b : Reg) : (s.exchange a b).pc = s.readReg b := by
  simp [State.exchange]
@[simp] theorem State.exchange_flags (s : State) (a b : Reg) : (s.exchange a b).flags = s.flags := by
  simp [State.exchange]
@[simp] theorem State.exchange_dmem (s : State) (a b : Reg) : (s.exchange a b).dmem = s.dmem := by
  simp [State.exchange]
@[simp] theorem State.exchange_imem (s : State) (a b : Reg) : (s.exchange a b).imem = s.imem := by
  simp [State.exchange]
@[simp] theorem State.exchange_draws (s : State) (a b : Reg) : (s.exchange a b).draws = s.draws := by
  simp [State.exchange]

/-- What the exchange of CALL and RETURN does to the registers: the last write wins, which matters only where the operands
collide (R260, R262). -/
theorem State.readReg_exchange (s : State) (a b r : Reg) :
    (s.exchange a b).readReg r =
      if r = 0 then 0#16
      else if r = a then s.readReg Reg.fp
      else if r = Reg.fp then s.readReg a
      else if r = b then s.pc + 1#16
      else s.readReg r := by
  simp only [State.exchange, State.readReg_writeReg, State.readReg_jump, State.nextPc]
  by_cases h0 : r = 0
  · subst h0; simp
  · simp [h0]

end Sys2Proof.Machine
end

