-- ==== Sys2Proof/Laws/Exec.lean ====
section
/-! SUPPORT. What a next state of an instruction can be, said once: an instruction that ends in one of the shared ways
completes as that way says, and every next state of `exec` is one of these ways. -/

namespace Sys2Proof.Machine

/-! ## From the way an instruction ends to how it completes -/

/-- An instruction that ends by `retire` writes the one register, gives the flags and advances the PC. -/
theorem completes_of_retire {i : Instr} {s : State} {d : Reg} {v : Word} {f : Flags}
    (h : exec i s = .next (s.retire d v f)) : Completes i s d v f (s.pc + 1#16) :=
  ⟨s.retire d v f, h, fun r => State.readReg_retire s d r v f, State.retire_flags s d v f, State.retire_pc s d v f,
    ⟨fun a => State.readData_retire s d v a f, State.retire_imem s d v f⟩, State.retire_draws s d v f⟩

/-- An instruction that only gives flags leaves every register and cell. -/
theorem completes_of_flags {i : Instr} {s : State} {f : Flags} (h : exec i s = .next (s.withFlags f).advance) :
    CompletesWithoutRegister i s f (s.pc + 1#16) :=
  ⟨(s.withFlags f).advance, h, fun _ => rfl, rfl, rfl, ⟨fun _ => rfl, rfl⟩, rfl⟩

/-- An instruction that ends by `branch` changes the PC alone. -/
theorem completes_of_branch {i : Instr} {s : State} {taken : Bool} {p : Word}
    (h : exec i s = .next (s.branch taken p)) : BranchCompletes i s taken p :=
  ⟨s.branch taken p, h, fun _ => rfl, rfl, rfl, ⟨fun _ => rfl, rfl⟩, rfl⟩

/-- A register-mode branch of any condition (R211). -/
theorem registerBranch_completes (cond : Cond) (b : Reg) (s : State) :
    BranchCompletes (cond.registerBranch b) s (condTaken cond s.flags) (s.readReg b) := by
  apply completes_of_branch
  cases cond <;> rfl

/-- A relative branch of any condition (R212). -/
theorem relativeBranch_completes (cond : Cond) (o : Int) (s : State) :
    BranchCompletes (cond.relativeBranch o) s (condTaken cond s.flags) (s.relativeTarget o) := by
  apply completes_of_branch
  cases cond <;> rfl

/-! ## CALL and RETURN -/

/-- When two transfers of CALL or RETURN collide (R262). -/
theorem callCollides_iff (a b : Reg) : callCollides a b = true ↔ (a = b ∧ a ≠ 0) ∨ b = 14 := by
  simp [callCollides]

/-- What CALL and RETURN answer (R260 to R262). -/
theorem callOrReturn_spec (a b : Reg) (s : State) :
    ((a = b ∧ a ≠ 0) ∨ b = 14 → callOrReturn a b s = .fault .callRegisterCollision) ∧
    (¬ ((a = b ∧ a ≠ 0) ∨ b = 14) → callOrReturn a b s = .next (s.exchange a b)) := by
  unfold callOrReturn
  rw [← callCollides_iff]
  exact ⟨fun h => by simp [h], fun h => by simp [h]⟩

/-! ## SWI and RTI -/

/-- What SWI and RTI answer on a platform: the effect that an INTERRUPT_MODEL describes, the fault where none does (R263, R264,
D13). -/
theorem interruptCode_spec {σ : Type} (p : Platform σ) (effect : InterruptModel σ → Option (State × σ)) :
    (p.interrupts.bind effect = none → interruptCode p effect = .fault .interruptOpcode) ∧
    (∀ next, p.interrupts.bind effect = some next → interruptCode p effect = .next next) := by
  unfold interruptCode
  exact ⟨fun h => by rw [h], fun next h => by rw [h]⟩

/-! ## The ways an instruction can end -/

/-- The ways an instruction can end in a next state. -/
inductive Effect (s : State) : State → Prop where
  /-- a register receives a value; carry-block is kept -/
  | retire (d : Reg) (v : Word) (f : Flags) (cb : f.cb = s.flags.cb) : Effect s (s.retire d v f)
  /-- a high-word MUL, which also takes a draw -/
  | drawn (d : Reg) (x y : Word) : Effect s (s.mulHigh d x y)
  /-- only flags are written -/
  | flags (f : Flags) : Effect s (s.withFlags f).advance
  /-- one data cell is written -/
  | store (a v : Word) : Effect s (s.writeData a v).advance
  /-- only the PC changes -/
  | branch (taken : Bool) (p : Word) : Effect s (s.branch taken p)
  /-- PC and FP are exchanged with two registers that do not collide -/
  | exchange (a b : Reg) (h : callCollides a b = false) : Effect s (s.exchange a b)

theorem execMul_effect (d a b : Reg) (s t : State) (h : execMul d a b s = .next t) : Effect s t := by
  unfold execMul at h
  split at h <;> cases h
  · exact .retire _ _ _ rfl
  · exact .drawn _ _ _

theorem callOrReturn_effect (a b : Reg) (s t : State) (h : callOrReturn a b s = .next t) : Effect s t := by
  unfold callOrReturn at h
  split at h <;> cases h
  exact .exchange _ _ (by simp_all)

/-- Every next state of `exec` is one of the ways of `Effect`. -/
theorem exec_effect (i : Instr) (s t : State) (h : exec i s = .next t) : Effect s t := by
  cases i
  case mul d a b => exact execMul_effect d a b s t h
  case call a b => exact callOrReturn_effect a b s t h
  case ret a b => exact callOrReturn_effect a b s t h
  case swi i => cases h
  case rti => cases h
  case rstrf d => cases h; exact .flags _
  case fon v => cases h; exact .flags _
  case foff v => cases h; exact .flags _
  case fset5 v => cases h; exact .flags _
  case fset4 v => cases h; exact .flags _
  case store d o b => cases h; exact .store _ _
  all_goals first
    | (cases h; exact .retire _ _ _ rfl)
    | (cases h; exact .branch _ _)

/-- What `exec` answers when it has no next state: the complete list, and never a refusal (R371). -/
theorem exec_stop (i : Instr) (s : State) :
    (∃ t, exec i s = .next t) ∨ exec i s = .fault .mulUndefinedFlags ∨ exec i s = .fault .callRegisterCollision ∨
      exec i s = .fault .interruptOpcode := by
  cases i
  case mul d a b =>
    show (∃ t, execMul d a b s = .next t) ∨ execMul d a b s = .fault .mulUndefinedFlags ∨ _
    unfold execMul
    split <;> simp
  case call a b =>
    show (∃ t, callOrReturn a b s = .next t) ∨ _ ∨ callOrReturn a b s = .fault .callRegisterCollision ∨ _
    unfold callOrReturn
    split <;> simp
  case ret a b =>
    show (∃ t, callOrReturn a b s = .next t) ∨ _ ∨ callOrReturn a b s = .fault .callRegisterCollision ∨ _
    unfold callOrReturn
    split <;> simp
  case swi i => exact .inr (.inr (.inr rfl))
  case rti => exact .inr (.inr (.inr rfl))
  all_goals exact .inl ⟨_, rfl⟩

/-! ## The step -/

/-- A next state of a step is a next state of an instruction that the fetched word decodes to. -/
theorem step_next {s t : State} (h : step s = .next t) :
    ∃ w i, s.fetch = some w ∧ decode w = .ok i ∧ exec i s = .next t := by
  unfold step at h
  split at h
  · cases h
  · rename_i w hw
    split at h
    · cases h
    · rename_i i hi
      exact ⟨w, i, hw, hi, h⟩

/-- A word placed by `withFetchWord` is what the next step fetches (log 2). -/
theorem fetch_withFetchWord (s : State) (nbits w : Nat) :
    (s.withFetchWord nbits w).fetch = some (BitVec.ofNat 16 (w % 2 ^ nbits)) :=
  State.fetch_placeInstruction s _

end Sys2Proof.Machine
end

