-- ==== Sys2Proof/Laws/PerInstr.lean ====
section
/-! SUPPORT. Statements about every instruction as syntax, one lemma per constructor. -/

namespace Sys2Proof

/-- The word of an instruction matches its own row of the encoding table (R94). -/
def Laws.EncodesItsRow.Statement (i : Instr) : Prop := (encodingRow i).accepts (encode i) = true

/-- A word of four digits matches a row when every digit does. -/
theorem accepts_word4 (a b c d p q r s : BitVec 4) (m w : Word) (hm : m = word4 p q r s)
    (hw : w = word4 (a &&& p) (b &&& q) (c &&& r) (d &&& s)) :
    (EncodingRow.mk m w).accepts (word4 a b c d) = true := by
  simp [EncodingRow.accepts, hm, hw, word4_and_word4]

/-- What a mask leaves of a digit of two fields: one lemma for each mask the rows use. -/
theorem mask_amount (x y : BitVec 1) (e : BitVec 2) : (x ++ y ++ e : BitVec 4) &&& 0xC#4 = x ++ y ++ 0#2 := by
  revert x y e; decide

theorem mask_flagOp (op : BitVec 3) (e : BitVec 1) : (op ++ e : BitVec 4) &&& 0xE#4 = op ++ 0#1 := by
  revert op e; decide

theorem mask_offset (x : BitVec 2) (y e : BitVec 1) : (x ++ y ++ e : BitVec 4) &&& 0xE#4 = x ++ y ++ 0#1 := by
  revert x y e; decide

theorem Laws.EncodesItsRow.setlo (d : Reg) (v : BitVec 8) : Laws.EncodesItsRow.Statement (.setlo d v) := by
  refine accepts_word4 _ _ _ _ 0xF#4 0x0#4 0x0#4 0x0#4 _ _ (by decide) ?_
  simp [word4]

theorem Laws.EncodesItsRow.sethi (d : Reg) (v : BitVec 8) : Laws.EncodesItsRow.Statement (.sethi d v) := by
  refine accepts_word4 _ _ _ _ 0xF#4 0x0#4 0x0#4 0x0#4 _ _ (by decide) ?_
  simp [word4]

theorem Laws.EncodesItsRow.and (d : Reg) (a : Reg) (b : Reg) : Laws.EncodesItsRow.Statement (.and d a b) := by
  refine accepts_word4 _ _ _ _ 0xF#4 0x0#4 0x0#4 0x0#4 _ _ (by decide) ?_
  simp [word4]

theorem Laws.EncodesItsRow.or (d : Reg) (a : Reg) (b : Reg) : Laws.EncodesItsRow.Statement (.or d a b) := by
  refine accepts_word4 _ _ _ _ 0xF#4 0x0#4 0x0#4 0x0#4 _ _ (by decide) ?_
  simp [word4]

theorem Laws.EncodesItsRow.add (d : Reg) (a : Reg) (b : Reg) : Laws.EncodesItsRow.Statement (.add d a b) := by
  refine accepts_word4 _ _ _ _ 0xF#4 0x0#4 0x0#4 0x0#4 _ _ (by decide) ?_
  simp [word4]

theorem Laws.EncodesItsRow.sub (d : Reg) (a : Reg) (b : Reg) : Laws.EncodesItsRow.Statement (.sub d a b) := by
  refine accepts_word4 _ _ _ _ 0xF#4 0x0#4 0x0#4 0x0#4 _ _ (by decide) ?_
  simp [word4]

theorem Laws.EncodesItsRow.mul (d : Reg) (a : Reg) (b : Reg) : Laws.EncodesItsRow.Statement (.mul d a b) := by
  refine accepts_word4 _ _ _ _ 0xF#4 0x0#4 0x0#4 0x0#4 _ _ (by decide) ?_
  simp [word4]

theorem Laws.EncodesItsRow.xor (d : Reg) (a : Reg) (b : Reg) : Laws.EncodesItsRow.Statement (.xor d a b) := by
  refine accepts_word4 _ _ _ _ 0xF#4 0x0#4 0x0#4 0x0#4 _ _ (by decide) ?_
  simp [word4]

theorem Laws.EncodesItsRow.inc (d : Reg) (amount : Nat) : Laws.EncodesItsRow.Statement (.inc d amount) := by
  refine accepts_word4 _ _ _ _ 0xF#4 0x0#4 0xC#4 0x0#4 _ _ (by decide) ?_
  rw [mask_amount]
  simp [word4]

theorem Laws.EncodesItsRow.dec (d : Reg) (amount : Nat) : Laws.EncodesItsRow.Statement (.dec d amount) := by
  refine accepts_word4 _ _ _ _ 0xF#4 0x0#4 0xC#4 0x0#4 _ _ (by decide) ?_
  rw [mask_amount]
  simp [word4]

theorem Laws.EncodesItsRow.lsl (d : Reg) (b : Reg) : Laws.EncodesItsRow.Statement (.lsl d b) := by
  refine accepts_word4 _ _ _ _ 0xF#4 0x0#4 0xF#4 0x0#4 _ _ (by decide) ?_
  simp [word4]

theorem Laws.EncodesItsRow.lsr (d : Reg) (b : Reg) : Laws.EncodesItsRow.Statement (.lsr d b) := by
  refine accepts_word4 _ _ _ _ 0xF#4 0x0#4 0xF#4 0x0#4 _ _ (by decide) ?_
  simp [word4]

theorem Laws.EncodesItsRow.lsl8 (d : Reg) (b : Reg) : Laws.EncodesItsRow.Statement (.lsl8 d b) := by
  refine accepts_word4 _ _ _ _ 0xF#4 0x0#4 0xF#4 0x0#4 _ _ (by decide) ?_
  simp [word4]

theorem Laws.EncodesItsRow.lsr8 (d : Reg) (b : Reg) : Laws.EncodesItsRow.Statement (.lsr8 d b) := by
  refine accepts_word4 _ _ _ _ 0xF#4 0x0#4 0xF#4 0x0#4 _ _ (by decide) ?_
  simp [word4]

theorem Laws.EncodesItsRow.asl (d : Reg) (b : Reg) : Laws.EncodesItsRow.Statement (.asl d b) := by
  refine accepts_word4 _ _ _ _ 0xF#4 0x0#4 0xF#4 0x0#4 _ _ (by decide) ?_
  simp [word4]

theorem Laws.EncodesItsRow.asr (d : Reg) (b : Reg) : Laws.EncodesItsRow.Statement (.asr d b) := by
  refine accepts_word4 _ _ _ _ 0xF#4 0x0#4 0xF#4 0x0#4 _ _ (by decide) ?_
  simp [word4]

theorem Laws.EncodesItsRow.savef (d : Reg) : Laws.EncodesItsRow.Statement (.savef d) := by
  refine accepts_word4 _ _ _ _ 0xF#4 0x0#4 0xF#4 0xF#4 _ _ (by decide) ?_
  simp [word4]

theorem Laws.EncodesItsRow.rstrf (d : Reg) : Laws.EncodesItsRow.Statement (.rstrf d) := by
  refine accepts_word4 _ _ _ _ 0xF#4 0x0#4 0xF#4 0xF#4 _ _ (by decide) ?_
  simp [word4]

theorem Laws.EncodesItsRow.fon (v : BitVec 5) : Laws.EncodesItsRow.Statement (.fon v) := by
  refine accepts_word4 _ _ _ _ 0xF#4 0xE#4 0xF#4 0x0#4 _ _ (by decide) ?_
  rw [mask_flagOp]
  simp [word4]

theorem Laws.EncodesItsRow.foff (v : BitVec 5) : Laws.EncodesItsRow.Statement (.foff v) := by
  refine accepts_word4 _ _ _ _ 0xF#4 0xE#4 0xF#4 0x0#4 _ _ (by decide) ?_
  rw [mask_flagOp]
  simp [word4]

theorem Laws.EncodesItsRow.fset5 (v : BitVec 5) : Laws.EncodesItsRow.Statement (.fset5 v) := by
  refine accepts_word4 _ _ _ _ 0xF#4 0xE#4 0xF#4 0x0#4 _ _ (by decide) ?_
  rw [mask_flagOp]
  simp [word4]

theorem Laws.EncodesItsRow.fset4 (v : BitVec 5) : Laws.EncodesItsRow.Statement (.fset4 v) := by
  refine accepts_word4 _ _ _ _ 0xF#4 0xE#4 0xF#4 0x0#4 _ _ (by decide) ?_
  rw [mask_flagOp]
  simp [word4]

theorem Laws.EncodesItsRow.load (d : Reg) (o : Nat) (b : Reg) : Laws.EncodesItsRow.Statement (.load d o b) := by
  refine accepts_word4 _ _ _ _ 0xE#4 0x0#4 0x0#4 0x0#4 _ _ (by decide) ?_
  rw [mask_offset]
  simp [word4]

theorem Laws.EncodesItsRow.store (d : Reg) (o : Nat) (b : Reg) : Laws.EncodesItsRow.Statement (.store d o b) := by
  refine accepts_word4 _ _ _ _ 0xE#4 0x0#4 0x0#4 0x0#4 _ _ (by decide) ?_
  rw [mask_offset]
  simp [word4]

theorem Laws.EncodesItsRow.br (b : Reg) : Laws.EncodesItsRow.Statement (.br b) := by
  refine accepts_word4 _ _ _ _ 0xF#4 0xF#4 0xF#4 0x0#4 _ _ (by decide) ?_
  simp [word4]

theorem Laws.EncodesItsRow.bl (b : Reg) : Laws.EncodesItsRow.Statement (.bl b) := by
  refine accepts_word4 _ _ _ _ 0xF#4 0xF#4 0xF#4 0x0#4 _ _ (by decide) ?_
  simp [word4]

theorem Laws.EncodesItsRow.bge (b : Reg) : Laws.EncodesItsRow.Statement (.bge b) := by
  refine accepts_word4 _ _ _ _ 0xF#4 0xF#4 0xF#4 0x0#4 _ _ (by decide) ?_
  simp [word4]

theorem Laws.EncodesItsRow.ble (b : Reg) : Laws.EncodesItsRow.Statement (.ble b) := by
  refine accepts_word4 _ _ _ _ 0xF#4 0xF#4 0xF#4 0x0#4 _ _ (by decide) ?_
  simp [word4]

theorem Laws.EncodesItsRow.bg (b : Reg) : Laws.EncodesItsRow.Statement (.bg b) := by
  refine accepts_word4 _ _ _ _ 0xF#4 0xF#4 0xF#4 0x0#4 _ _ (by decide) ?_
  simp [word4]

theorem Laws.EncodesItsRow.bule (b : Reg) : Laws.EncodesItsRow.Statement (.bule b) := by
  refine accepts_word4 _ _ _ _ 0xF#4 0xF#4 0xF#4 0x0#4 _ _ (by decide) ?_
  simp [word4]

theorem Laws.EncodesItsRow.bug (b : Reg) : Laws.EncodesItsRow.Statement (.bug b) := by
  refine accepts_word4 _ _ _ _ 0xF#4 0xF#4 0xF#4 0x0#4 _ _ (by decide) ?_
  simp [word4]

theorem Laws.EncodesItsRow.bz (b : Reg) : Laws.EncodesItsRow.Statement (.bz b) := by
  refine accepts_word4 _ _ _ _ 0xF#4 0xF#4 0xF#4 0x0#4 _ _ (by decide) ?_
  simp [word4]

theorem Laws.EncodesItsRow.bnz (b : Reg) : Laws.EncodesItsRow.Statement (.bnz b) := by
  refine accepts_word4 _ _ _ _ 0xF#4 0xF#4 0xF#4 0x0#4 _ _ (by decide) ?_
  simp [word4]

theorem Laws.EncodesItsRow.bc (b : Reg) : Laws.EncodesItsRow.Statement (.bc b) := by
  refine accepts_word4 _ _ _ _ 0xF#4 0xF#4 0xF#4 0x0#4 _ _ (by decide) ?_
  simp [word4]

theorem Laws.EncodesItsRow.bnc (b : Reg) : Laws.EncodesItsRow.Statement (.bnc b) := by
  refine accepts_word4 _ _ _ _ 0xF#4 0xF#4 0xF#4 0x0#4 _ _ (by decide) ?_
  simp [word4]

theorem Laws.EncodesItsRow.bs (b : Reg) : Laws.EncodesItsRow.Statement (.bs b) := by
  refine accepts_word4 _ _ _ _ 0xF#4 0xF#4 0xF#4 0x0#4 _ _ (by decide) ?_
  simp [word4]

theorem Laws.EncodesItsRow.bns (b : Reg) : Laws.EncodesItsRow.Statement (.bns b) := by
  refine accepts_word4 _ _ _ _ 0xF#4 0xF#4 0xF#4 0x0#4 _ _ (by decide) ?_
  simp [word4]

theorem Laws.EncodesItsRow.bv (b : Reg) : Laws.EncodesItsRow.Statement (.bv b) := by
  refine accepts_word4 _ _ _ _ 0xF#4 0xF#4 0xF#4 0x0#4 _ _ (by decide) ?_
  simp [word4]

theorem Laws.EncodesItsRow.bnv (b : Reg) : Laws.EncodesItsRow.Statement (.bnv b) := by
  refine accepts_word4 _ _ _ _ 0xF#4 0xF#4 0xF#4 0x0#4 _ _ (by decide) ?_
  simp [word4]

theorem Laws.EncodesItsRow.brr (o : Int) : Laws.EncodesItsRow.Statement (.brr o) := by
  refine accepts_word4 _ _ _ _ 0xF#4 0xF#4 0x0#4 0x0#4 _ _ (by decide) ?_
  simp [word4]

theorem Laws.EncodesItsRow.blr (o : Int) : Laws.EncodesItsRow.Statement (.blr o) := by
  refine accepts_word4 _ _ _ _ 0xF#4 0xF#4 0x0#4 0x0#4 _ _ (by decide) ?_
  simp [word4]

theorem Laws.EncodesItsRow.bger (o : Int) : Laws.EncodesItsRow.Statement (.bger o) := by
  refine accepts_word4 _ _ _ _ 0xF#4 0xF#4 0x0#4 0x0#4 _ _ (by decide) ?_
  simp [word4]

theorem Laws.EncodesItsRow.bler (o : Int) : Laws.EncodesItsRow.Statement (.bler o) := by
  refine accepts_word4 _ _ _ _ 0xF#4 0xF#4 0x0#4 0x0#4 _ _ (by decide) ?_
  simp [word4]

theorem Laws.EncodesItsRow.bgr (o : Int) : Laws.EncodesItsRow.Statement (.bgr o) := by
  refine accepts_word4 _ _ _ _ 0xF#4 0xF#4 0x0#4 0x0#4 _ _ (by decide) ?_
  simp [word4]

theorem Laws.EncodesItsRow.buler (o : Int) : Laws.EncodesItsRow.Statement (.buler o) := by
  refine accepts_word4 _ _ _ _ 0xF#4 0xF#4 0x0#4 0x0#4 _ _ (by decide) ?_
  simp [word4]

theorem Laws.EncodesItsRow.bugr (o : Int) : Laws.EncodesItsRow.Statement (.bugr o) := by
  refine accepts_word4 _ _ _ _ 0xF#4 0xF#4 0x0#4 0x0#4 _ _ (by decide) ?_
  simp [word4]

theorem Laws.EncodesItsRow.bzr (o : Int) : Laws.EncodesItsRow.Statement (.bzr o) := by
  refine accepts_word4 _ _ _ _ 0xF#4 0xF#4 0x0#4 0x0#4 _ _ (by decide) ?_
  simp [word4]

theorem Laws.EncodesItsRow.bnzr (o : Int) : Laws.EncodesItsRow.Statement (.bnzr o) := by
  refine accepts_word4 _ _ _ _ 0xF#4 0xF#4 0x0#4 0x0#4 _ _ (by decide) ?_
  simp [word4]

theorem Laws.EncodesItsRow.bcr (o : Int) : Laws.EncodesItsRow.Statement (.bcr o) := by
  refine accepts_word4 _ _ _ _ 0xF#4 0xF#4 0x0#4 0x0#4 _ _ (by decide) ?_
  simp [word4]

theorem Laws.EncodesItsRow.bncr (o : Int) : Laws.EncodesItsRow.Statement (.bncr o) := by
  refine accepts_word4 _ _ _ _ 0xF#4 0xF#4 0x0#4 0x0#4 _ _ (by decide) ?_
  simp [word4]

theorem Laws.EncodesItsRow.bsr (o : Int) : Laws.EncodesItsRow.Statement (.bsr o) := by
  refine accepts_word4 _ _ _ _ 0xF#4 0xF#4 0x0#4 0x0#4 _ _ (by decide) ?_
  simp [word4]

theorem Laws.EncodesItsRow.bnsr (o : Int) : Laws.EncodesItsRow.Statement (.bnsr o) := by
  refine accepts_word4 _ _ _ _ 0xF#4 0xF#4 0x0#4 0x0#4 _ _ (by decide) ?_
  simp [word4]

theorem Laws.EncodesItsRow.bvr (o : Int) : Laws.EncodesItsRow.Statement (.bvr o) := by
  refine accepts_word4 _ _ _ _ 0xF#4 0xF#4 0x0#4 0x0#4 _ _ (by decide) ?_
  simp [word4]

theorem Laws.EncodesItsRow.bnvr (o : Int) : Laws.EncodesItsRow.Statement (.bnvr o) := by
  refine accepts_word4 _ _ _ _ 0xF#4 0xF#4 0x0#4 0x0#4 _ _ (by decide) ?_
  simp [word4]

theorem Laws.EncodesItsRow.call (a : Reg) (b : Reg) : Laws.EncodesItsRow.Statement (.call a b) := by
  refine accepts_word4 _ _ _ _ 0xF#4 0xF#4 0x0#4 0x0#4 _ _ (by decide) ?_
  simp [word4]

theorem Laws.EncodesItsRow.ret (a : Reg) (b : Reg) : Laws.EncodesItsRow.Statement (.ret a b) := by
  refine accepts_word4 _ _ _ _ 0xF#4 0xF#4 0x0#4 0x0#4 _ _ (by decide) ?_
  simp [word4]

theorem Laws.EncodesItsRow.swi (i : Nat) : Laws.EncodesItsRow.Statement (.swi i) := by
  refine accepts_word4 _ _ _ _ 0xF#4 0xF#4 0xF#4 0x0#4 _ _ (by decide) ?_
  simp [word4]

theorem Laws.EncodesItsRow.rti : Laws.EncodesItsRow.Statement (.rti) := by
  refine accepts_word4 _ _ _ _ 0xF#4 0xF#4 0xF#4 0xF#4 _ _ (by decide) ?_
  simp [word4]

end Sys2Proof
end

