-- ==== Sys2Proof/Laws/Values.lean ====
section
/-! SUPPORT. What the values of shifts and immediates are as numbers. -/

namespace Sys2Proof.Machine

/-- LSL and ASL double the unsigned value and add the bit shifted in (R161, R165). -/
theorem shiftLeftValue_toNat (x : Word) (cin : Bool) :
    (shiftLeftValue x cin).toNat = (2 * x.toNat + cin.toNat) % 65536 := by
  simp only [shiftLeftValue, toNat_append_add, BitVec.extractLsb'_toNat, BitVec.toNat_ofBool]
  have := x.isLt
  cases cin <;> simp <;> omega

/-- LSR halves the unsigned value; the bit shifted in is worth 32768 (R162). -/
theorem shiftRightValue_toNat (x : Word) (cin : Bool) :
    (shiftRightValue x cin).toNat = x.toNat / 2 + 32768 * cin.toNat := by
  simp only [shiftRightValue, toNat_append_add, BitVec.extractLsb'_toNat, BitVec.toNat_ofBool]
  have := x.isLt
  cases cin <;> simp [Nat.shiftRight_eq_div_pow] <;> omega

/-- LSL8 multiplies by 256 (R163). -/
theorem shiftLeft8Value_toNat (x : Word) : (shiftLeft8Value x).toNat = 256 * x.toNat % 65536 := by
  simp only [shiftLeft8Value, toNat_append_add, BitVec.extractLsb'_toNat]
  simp; omega

/-- LSR8 divides by 256 (R164). -/
theorem shiftRight8Value_toNat (x : Word) : (shiftRight8Value x).toNat = x.toNat / 256 := by
  simp only [shiftRight8Value, toNat_append_add, BitVec.extractLsb'_toNat]
  have := x.isLt
  simp [Nat.shiftRight_eq_div_pow]; omega

/-- ASR halves and keeps the sign bit (R166). -/
theorem arithShiftRightValue_toNat (x : Word) :
    (arithShiftRightValue x).toNat = x.toNat / 2 + 32768 * (x.toNat / 32768) := by
  simp only [arithShiftRightValue, toNat_append_add, BitVec.extractLsb'_toNat]
  have := x.isLt
  simp [Nat.shiftRight_eq_div_pow]; omega

/-- SETHI puts the byte above the kept low byte (R121). -/
theorem highByte_toNat (v : BitVec 8) (old : Word) :
    (highByte v old).toNat = 256 * v.toNat + old.toNat % 256 := by
  simp only [highByte, toNat_append_add, BitVec.extractLsb'_toNat]
  simp; omega

end Sys2Proof.Machine
end

