-- ==== Sys2Proof/Machine/AssemblyText.lean ====
section
/-! DEFINITION. Assembly text (R280 to R282, R311, R315, R316, R318): from characters to the statements that
Machine/Assembler.lean assembles. None of it is hardware. What the spec leaves open of the text is in log 18. -/

namespace Sys2Proof.Machine

/-! ## Tokens -/

/-- A token of assembly text. -/
inductive Token where
  /-- a name: letters, numerals and underscores, no numeral first -/
  | name (n : Name)
  /-- an unsigned integer as it is written -/
  | number (text : List Char)
  /-- a single-quoted literal: the text between the quotes -/
  | chr (text : List Char)
  /-- a double-quoted literal: the text between the quotes -/
  | str (text : List Char)
  /-- the text between angle brackets -/
  | header (text : List Char)
  /-- an opening parenthesis -/
  | openParen
  /-- a closing parenthesis -/
  | closeParen
  /-- a comma -/
  | comma
  /-- a minus sign -/
  | minus
  /-- a number sign, which opens a directive or, in a macro's body, makes a string of an argument (R315, R316) -/
  | hash
  /-- two number signs, which join their neighbours in a macro's body (R315) -/
  | paste
  /-- white space within a line, or a comment -/
  | space
  /-- the end of a line -/
  | newline
  /-- any other character, which a macro may hold and no statement does -/
  | other (c : Char)
  deriving DecidableEq, Repr

/-- What the reader of characters is in the middle of. -/
inductive LexMode where
  /-- between tokens -/
  | between
  /-- in a name or number -/
  | word
  /-- after one slash -/
  | slash
  /-- in a comment that runs to the end of the line (R280) -/
  | lineComment
  /-- in a comment between slash-star and star-slash, as in C -/
  | blockComment
  /-- in such a comment, after a star -/
  | blockStar
  /-- in a double-quoted literal -/
  | inStr
  /-- in a double-quoted literal, after a backslash -/
  | inStrEscape
  /-- in a single-quoted literal -/
  | inChr
  /-- in a single-quoted literal, after a backslash -/
  | inChrEscape
  /-- in an angle-bracketed name -/
  | inHeader
  /-- no token can be read -/
  | bad
  deriving DecidableEq, Repr

/-- The reader of characters: what it is in, the characters of the current token and the tokens before it, each the last
first. -/
structure Lexer where
  /-- the mode -/
  mode : LexMode
  /-- characters of the current token, the last first -/
  current : List Char
  /-- the tokens read, the last first -/
  tokens : List Token
  deriving DecidableEq, Repr

/-- A text with the line ends that a backslash precedes taken out: "line breaks within macro definitions must be preceded by
a backslash" (R315). -/
def spliceLines : List Char → List Char
  | [] => []
  | '\\' :: '\n' :: rest => spliceLines rest
  | '\\' :: '\r' :: '\n' :: rest => spliceLines rest
  | c :: rest => c :: spliceLines rest

/-- The number that numerals of a base write, if each is one. -/
def digitsValue (base : Nat) : Nat → List Char → Option Nat
  | acc, [] => some acc
  | acc, c :: rest =>
    match hexDigit c.toNat with
    | some k => if k < base then digitsValue base (base * acc + k) rest else none
    | none => none

/-- The number that a decimal or hexadecimal integer writes (R282). -/
def numberValue (text : List Char) : Option Nat :=
  match text with
  | '0' :: 'x' :: c :: rest => digitsValue 16 0 (c :: rest)
  | [] => none
  | _ => digitsValue 10 0 text

/-- A word as a token: a name, or else an integer. -/
def wordToken (w : List Char) : Token := if validName w then .name w else .number w

/-- The reader after a token. -/
def Lexer.push (l : Lexer) (t : Token) : Lexer := { mode := .between, current := [], tokens := t :: l.tokens }

/-- The reader in another mode, the current token empty. -/
def Lexer.enter (l : Lexer) (m : LexMode) : Lexer := { l with mode := m, current := [] }

/-- The reader with one more character of the current token. -/
def Lexer.keep (l : Lexer) (m : LexMode) (c : Char) : Lexer := { l with mode := m, current := c :: l.current }

/-- The reader after a number sign: two of them side by side are one token. -/
def Lexer.pushHash (l : Lexer) : Lexer :=
  match l.tokens with
  | .hash :: before => { mode := .between, current := [], tokens := .paste :: before }
  | _ => l.push .hash

/-- Tokens without the white space in front. -/
def skipSpace : List Token → List Token
  | .space :: rest => skipSpace rest
  | ts => ts

/-- Whether the tokens before, the last first, are those of an include directive, after which an angle bracket opens a file's
name (R316). -/
def includeBefore (before : List Token) : Bool :=
  match skipSpace before with
  | .name n :: rest => decide (n = ['i', 'n', 'c', 'l', 'u', 'd', 'e']) && (skipSpace rest).head? == some .hash
  | _ => false

/-- A character where no token is open, by its code. -/
def Lexer.between (l : Lexer) (c : Char) : Lexer :=
  match c.toNat with
  | 9 | 13 | 32 => l.push .space
  | 10 => l.push .newline
  | 34 => l.enter .inStr
  | 35 => l.pushHash
  | 39 => l.enter .inChr
  | 40 => l.push .openParen
  | 41 => l.push .closeParen
  | 44 => l.push .comma
  | 45 => l.push .minus
  | 47 => l.enter .slash
  | 60 => if includeBefore l.tokens then l.enter .inHeader else l.push (.other c)
  | n => if isNamePart n then (l.enter .word).keep .word c else l.push (.other c)

/-- One character read. -/
def Lexer.read (l : Lexer) (c : Char) : Lexer :=
  let n := c.toNat
  match l.mode with
  | .between => l.between c
  | .word => if isNamePart n then l.keep .word c else (l.push (wordToken l.current.reverse)).between c
  | .slash =>
    if n = 47 then l.enter .lineComment
    else if n = 42 then l.enter .blockComment
    else (l.push (.other '/')).between c
  | .lineComment => if n = 10 then l.push .newline else l
  | .blockComment => if n = 42 then l.enter .blockStar else l
  | .blockStar => if n = 47 then l.push .space else if n = 42 then l else l.enter .blockComment
  | .inStr =>
    if n = 34 then l.push (.str l.current.reverse)
    else if n = 10 then l.enter .bad
    else l.keep (if n = 92 then .inStrEscape else .inStr) c
  | .inStrEscape => l.keep .inStr c
  | .inChr =>
    if n = 39 then l.push (.chr l.current.reverse)
    else if n = 10 then l.enter .bad
    else l.keep (if n = 92 then .inChrEscape else .inChr) c
  | .inChrEscape => l.keep .inChr c
  | .inHeader =>
    if n = 62 then l.push (.header l.current.reverse) else if n = 10 then l.enter .bad else l.keep .inHeader c
  | .bad => l

/-- The tokens of a text, or a refusal; the text is read as if it ended with a line end. -/
def lexText (text : List Char) : Except AsmError (List Token) :=
  let l := ((spliceLines text).foldl Lexer.read { mode := .between, current := [], tokens := [] }).read (Char.ofNat 10)
  if l.mode = .between then .ok l.tokens.reverse else .error .badText

/-- The tokens line by line. -/
def splitLines : List Token → List (List Token)
  | [] => [[]]
  | .newline :: rest => [] :: splitLines rest
  | t :: rest =>
    match splitLines rest with
    | [] => [[t]]
    | line :: more => (t :: line) :: more

/-- Tokens without white space. -/
def withoutSpace (ts : List Token) : List Token := ts.filter (fun t => t ≠ .space)

/-! ## Macros (R315): "C's #define mechanism, along with its strengths and weaknesses" -/

/-- A macro: "textual substitution with parameters" (R315). -/
structure Macro where
  /-- its name -/
  name : Name
  /-- its parameters, if it has a parameter list -/
  params : Option (List Name)
  /-- the tokens it stands for -/
  body : List Token
  deriving DecidableEq, Repr

/-- The macro of a name, the latest definition first; names are compared character by character (log 18). -/
def findMacro : List Macro → Name → Option Macro
  | [], _ => none
  | m :: rest, n => if m.name = n then some m else findMacro rest n

/-- A token on its way through macro expansion, with the macros whose expansion it came out of: as in C, a macro's name is
no use of the macro there. -/
structure PreToken where
  /-- the token -/
  token : Token
  /-- names that are no macro uses here -/
  hidden : List Name
  deriving DecidableEq, Repr

/-- A token of the program's own text. -/
def PreToken.fresh (t : Token) : PreToken := { token := t, hidden := [] }

/-- Tokens that came out of the macros named. -/
def hideIn (names : List Name) (ts : List PreToken) : List PreToken :=
  ts.map fun t => { t with hidden := names ++ t.hidden }

/-- Tokens without the white space in front. -/
def skipPreSpace : List PreToken → List PreToken
  | [] => []
  | t :: rest => if t.token = .space then skipPreSpace rest else t :: rest

/-- Tokens without white space at either end. -/
def trimPreSpace (ts : List PreToken) : List PreToken := (skipPreSpace (skipPreSpace ts).reverse).reverse

/-- The arguments of a macro use, after its opening parenthesis: the tokens between commas outside inner parentheses, up to
the closing one, then that one and what follows. `depth` counts the inner parentheses, `current` holds the argument at hand,
the last token first. -/
def macroArgs (depth : Nat) (current : List PreToken) :
    List PreToken → Option (List (List PreToken) × PreToken × List PreToken)
  | [] => none
  | t :: rest =>
    match t.token, depth with
    | .closeParen, 0 => some ([trimPreSpace current.reverse], t, rest)
    | .closeParen, k + 1 => macroArgs k (t :: current) rest
    | .comma, 0 => (macroArgs 0 [] rest).map fun (args, after) => (trimPreSpace current.reverse :: args, after)
    | .openParen, k => macroArgs (k + 1) (t :: current) rest
    | _, k => macroArgs k (t :: current) rest

/-- Whether the arguments fit the parameters: as many, or none for an empty list. -/
def argsFit (params : List Name) (args : List (List PreToken)) : Bool :=
  args.length == params.length || (params.isEmpty && args == [[]])

/-- A use of a macro and what follows it. -/
structure MacroUse where
  /-- the macro -/
  used : Macro
  /-- its arguments as written -/
  args : List (List PreToken)
  /-- the names hidden in what it expands to -/
  hidden : List Name
  /-- the tokens after the use -/
  after : List PreToken
  deriving DecidableEq, Repr

/-- The macro use that begins at a token, if one does: the name of a macro that is not hidden, and for a macro with
parameters the arguments in parentheses after it. -/
def macroUse (macros : List Macro) (t : PreToken) (rest : List PreToken) : Except AsmError (Option MacroUse) :=
  match t.token with
  | .name n =>
    match if n ∈ t.hidden then none else findMacro macros n with
    | none => .ok none
    | some m =>
      match m.params, skipPreSpace rest with
      | none, _ => .ok (some { used := m, args := [], hidden := n :: t.hidden, after := rest })
      | some _, [] => .ok none
      | some params, p :: inner =>
        if p.token = .openParen then
          match macroArgs 0 [] inner with
          | none => .error .badText
          | some (args, close, after) =>
            if argsFit params args then
              .ok (some { used := m, args := args, hidden := n :: t.hidden.filter (fun k => k ∈ close.hidden), after := after })
            else .error (.badStatement n)
        else .ok none
  | _ => .ok none

/-! ### What a macro use stands for -/

/-- A parameter with its argument, as written and expanded. -/
structure Argument where
  /-- the parameter -/
  param : Name
  /-- the argument as written -/
  written : List PreToken
  /-- the argument with its own macros expanded -/
  expanded : List PreToken
  deriving DecidableEq, Repr

/-- The argument of a parameter. -/
def argumentOf : List Argument → Name → Option Argument
  | [], _ => none
  | a :: rest, n => if a.param = n then some a else argumentOf rest n

/-- Parameters with their arguments. -/
def bindArguments : List Name → List (List PreToken) → List (List PreToken) → List Argument
  | p :: ps, w :: ws, e :: es => { param := p, written := w, expanded := e } :: bindArguments ps ws es
  | _, _, _ => []

/-- A literal's text with a backslash before each backslash and double quote. -/
def escapeLiteral : List Char → List Char
  | [] => []
  | c :: rest => if c.toNat = 34 ∨ c.toNat = 92 then Char.ofNat 92 :: c :: escapeLiteral rest else c :: escapeLiteral rest

/-- How a token is spelt inside a string that the operator # makes. -/
def Token.spelling : Token → List Char
  | .name n => n
  | .number n => n
  | .chr t => '\'' :: escapeLiteral t ++ ['\'']
  | .str t => escapeLiteral (Char.ofNat 34 :: t ++ [Char.ofNat 34])
  | .header t => '<' :: t ++ ['>']
  | .openParen => ['(']
  | .closeParen => [')']
  | .comma => [',']
  | .minus => ['-']
  | .hash => ['#']
  | .paste => ['#', '#']
  | .space => [' ']
  | .newline => [' ']
  | .other c => [c]

/-- The text of the string that # makes of an argument: its tokens as spelt, white space between two of them one space. -/
def stringText : List PreToken → List Char
  | [] => []
  | [t] => t.token.spelling
  | t :: u :: rest =>
    if t.token = .space ∧ u.token = .space then stringText (u :: rest) else t.token.spelling ++ stringText (u :: rest)

/-- A piece of a macro's body with its parameters replaced. -/
inductive BodyPart where
  /-- a token -/
  | piece (t : PreToken)
  /-- an empty argument beside ## -/
  | empty
  /-- the operator ## -/
  | join
  deriving DecidableEq, Repr

/-- Whether the next token other than white space is the operator ##. -/
def joinFollows : List Token → Bool
  | .paste :: _ => true
  | .space :: rest => joinFollows rest
  | _ => false

/-- An argument as parts of a body: as written beside the operator ##, with its macros expanded elsewhere. -/
def Argument.parts (a : Argument) (beside : Bool) : List BodyPart :=
  match beside, a.written with
  | true, [] => [.empty]
  | true, ts => ts.map .piece
  | false, _ => a.expanded.map .piece

/-- A body with its parameters replaced, and # carried out before a parameter. `joined` says that ## came just before. -/
def bodyParts (args : List Argument) : Bool → List Token → List BodyPart
  | _, [] => []
  | _, .paste :: rest => .join :: bodyParts args true rest
  | joined, .space :: rest => .piece (.fresh .space) :: bodyParts args joined rest
  | joined, .name n :: rest =>
    match argumentOf args n with
    | some a => a.parts (joined || joinFollows rest) ++ bodyParts args false rest
    | none => .piece (.fresh (.name n)) :: bodyParts args false rest
  | _, .hash :: .name n :: rest =>
    match argumentOf args n with
    | some a => .piece (.fresh (.str (stringText a.written))) :: bodyParts args false rest
    | none => .piece (.fresh .hash) :: .piece (.fresh (.name n)) :: bodyParts args false rest
  | _, .hash :: .space :: .name n :: rest =>
    match argumentOf args n with
    | some a => .piece (.fresh (.str (stringText a.written))) :: bodyParts args false rest
    | none => .piece (.fresh .hash) :: .piece (.fresh .space) :: .piece (.fresh (.name n)) :: bodyParts args false rest
  | _, t :: rest => .piece (.fresh t) :: bodyParts args false rest

/-- Two parts joined by ##: two words make one word; an empty argument adds nothing. -/
def joinParts : BodyPart → BodyPart → Option BodyPart
  | .empty, q => some q
  | p, .empty => some p
  | .piece p, .piece q =>
    match p.token, q.token with
    | .name a, .name b | .name a, .number b | .number a, .name b | .number a, .number b =>
      some (.piece { token := wordToken (a ++ b), hidden := p.hidden.filter (fun n => n ∈ q.hidden) })
    | _, _ => none
  | _, _ => none

/-- Parts without the white space in front. -/
def skipPartSpace : List BodyPart → List BodyPart
  | [] => []
  | p :: rest => if p = .piece (.fresh .space) then skipPartSpace rest else p :: rest

/-- The tokens of a body's parts, every ## carried out. `out` holds the parts done, the last first; `joining` says that ##
came just before. A ## without a neighbour has no meaning. -/
def joinAll (out : List BodyPart) (joining : Bool) : List BodyPart → Option (List PreToken)
  | [] =>
    if joining then none
    else some (out.reverse.filterMap fun p => match p with
      | .piece t => some t
      | _ => none)
  | .join :: rest => joinAll (skipPartSpace out) true rest
  | p :: rest =>
    if joining then
      if p = .piece (.fresh .space) then joinAll out true rest
      else
        match out with
        | [] => none
        | q :: before => (joinParts q p).bind fun r => joinAll (r :: before) false rest
    else joinAll (p :: out) false rest

/-- What a use of a macro stands for, given its arguments with their macros expanded. -/
def MacroUse.replacement (u : MacroUse) (expanded : List (List PreToken)) : Option (List PreToken) :=
  let args := match u.used.params with
    | some params => bindArguments params u.args expanded
    | none => []
  (joinAll [] false (bodyParts args false u.used.body)).map (hideIn u.hidden)

/-- A function on each list, or its first refusal. -/
def onEach (f : List PreToken → Except AsmError (List PreToken)) :
    List (List PreToken) → Except AsmError (List (List PreToken))
  | [] => .ok []
  | x :: rest =>
    match f x, onEach f rest with
    | .ok y, .ok ys => .ok (y :: ys)
    | .error e, _ => .error e
    | _, .error e => .error e

/-- Tokens with every macro expanded, as in C: the arguments first, then the body with them in it is read again together
with what follows the use. `fuel` bounds the work. -/
def expandMacros : Nat → List Macro → List PreToken → Except AsmError (List PreToken)
  | 0, _, _ => .error .tooLong
  | _ + 1, _, [] => .ok []
  | fuel + 1, macros, t :: rest =>
    match macroUse macros t rest with
    | .error e => .error e
    | .ok none =>
      match expandMacros fuel macros rest with
      | .ok ts => .ok (t :: ts)
      | .error e => .error e
    | .ok (some u) =>
      match onEach (expandMacros fuel macros) u.args with
      | .error e => .error e
      | .ok expanded =>
        match u.replacement expanded with
        | none => .error .badText
        | some ts => expandMacros fuel macros (ts ++ u.after)

/-- The tokens of a part of a program's text with every macro expanded. -/
def expandTokens (fuel : Nat) (macros : List Macro) (ts : List Token) : Except AsmError (List Token) :=
  match expandMacros fuel macros (ts.map .fresh) with
  | .ok us => .ok (us.map PreToken.token)
  | .error e => .error e

/-! ## Directives and included files (R315, R316) -/

/-- The parameter names of a macro's definition, between the parentheses. -/
def macroParams : List Token → Option (List Name)
  | [] => some []
  | [.name p] => some [p]
  | .name p :: .comma :: .name q :: rest => (macroParams (.name q :: rest)).map (p :: ·)
  | _ => none

/-- The macro that the tokens after `#define` define: with parameters where a parenthesis directly follows the name, as in
C (R315). -/
def defineDirective : List Token → Option Macro
  | .name n :: .openParen :: rest =>
    let params := rest.takeWhile (fun t => t ≠ .closeParen)
    if params.length < rest.length then
      (macroParams (withoutSpace params)).map fun ps =>
        { name := n, params := some ps, body := skipSpace (rest.drop (params.length + 1)) }
    else none
  | .name n :: rest => some { name := n, params := none, body := skipSpace rest }
  | _ => none

/-- What a line of a program is. -/
inductive Line where
  /-- statements, or parts of them -/
  | text (ts : List Token)
  /-- a macro definition (R315) -/
  | define (m : Macro)
  /-- a macro's definition undone, as in C -/
  | undefine (n : Name)
  /-- a file included (R316) -/
  | include (file : List Char)
  /-- another directive -/
  | bad
  deriving DecidableEq, Repr

/-- A line read (R315, R316). DESIGN CHOICE (log 18): a file's name may stand in double quotes too, as in C, and is looked up in
the same library; the spec shows angle brackets only. -/
def readLine (ts : List Token) : Line :=
  match skipSpace ts with
  | .hash :: rest =>
    match skipSpace rest with
    | [] => .text []
    | .name d :: operands =>
      if d = ['d', 'e', 'f', 'i', 'n', 'e'] then
        match defineDirective (skipSpace operands) with
        | some m => .define m
        | none => .bad
      else
        match withoutSpace operands with
        | [.name n] => if d = ['u', 'n', 'd', 'e', 'f'] then .undefine n else .bad
        | [.header file] | [.str file] => if d = ['i', 'n', 'c', 'l', 'u', 'd', 'e'] then .include file else .bad
        | _ => .bad
    | _ => .bad
  | _ => .text ts

/-- Files at hand, by name: the spec gives no library's text (R316, R356), so the user of the model supplies it. -/
abbrev Library := List (List Char × List Char)

/-- The text of a file, or a refusal. -/
def findFile : Library → List Char → Except AsmError (List Char)
  | [], n => .error (.missingFile n)
  | (k, text) :: rest, n => if k = n then .ok text else findFile rest n

/-- The tokens of a program line by line, directives carried out: the lines before a directive are expanded with the macros
defined before it. `pending` holds those lines' tokens. `fuel` bounds the work. -/
def preprocess (library : Library) :
    Nat → List Macro → List Token → List (List Token) → Except AsmError (List Token)
  | 0, _, _, _ => .error .tooLong
  | fuel + 1, macros, pending, [] => expandTokens (fuel + 1) macros pending
  | fuel + 1, macros, pending, line :: lines =>
    let after (next : Except AsmError (List Token)) : Except AsmError (List Token) :=
      match expandTokens (fuel + 1) macros pending, next with
      | .ok ts, .ok us => .ok (ts ++ us)
      | .error e, _ => .error e
      | _, .error e => .error e
    match readLine line with
    | .text ts => preprocess library fuel macros (pending ++ .space :: ts) lines
    | .define m => after (preprocess library fuel (m :: macros) [] lines)
    | .undefine n => after (preprocess library fuel (macros.filter fun m => m.name ≠ n) [] lines)
    | .include file =>
      match findFile library file with
      | .error e => .error e
      | .ok text =>
        match lexText text with
        | .error e => .error e
        | .ok ts => preprocess library fuel macros pending (splitLines ts ++ lines)
    | .bad => .error .badText

/-! ## Statements (R280, R318) -/

/-- An operand as written. -/
inductive Operand where
  /-- a name -/
  | name (n : Name)
  /-- an integer -/
  | int (n : Int)
  /-- a single-quoted literal -/
  | chr (text : List Char)
  /-- a double-quoted literal -/
  | str (text : List Char)
  deriving DecidableEq, Repr

/-- The operand that tokens write (R282). -/
def operandOf : List Token → Option Operand
  | [.name n] => some (.name n)
  | [.number text] => (numberValue text).map fun n => .int n
  | [.minus, .number text] => (numberValue text).map fun n => .int (-(n : Int))
  | [.chr t] => some (.chr t)
  | [.str t] => some (.str t)
  | _ => none

/-- The register numbered n, if there is one. -/
def registerNumber (n : Nat) : Option Reg := if h : n < 16 then some ⟨n, h⟩ else none

/-- The register a name names (R281): R0 to R15, r0 to r15, and the five aliases. -/
def registerNamed (n : Name) : Option Reg :=
  if n = ['R', 't'] then some Reg.rt
  else if n = ['F', 'P', '_', 'a', 'l', 't'] then some Reg.fpAlt
  else if n = ['P', 'C', '_', 'r', 'e', 't'] then some Reg.pcRet
  else if n = ['F', 'P'] then some Reg.fp
  else if n = ['S', 'P'] then some Reg.sp
  else
    match n with
    | [p, d] => if p = 'R' ∨ p = 'r' then (digitsValue 10 0 [d]).bind registerNumber else none
    | [p, '1', d] => if p = 'R' ∨ p = 'r' then (digitsValue 10 1 [d]).bind registerNumber else none
    | _ => none

/-- An operand in a register position: a register's name or its bare number (R281). -/
def Operand.reg : Operand → Option Reg
  | .name n => registerNamed n
  | .int n => if 0 ≤ n then registerNumber n.toNat else none
  | .chr _ => none
  | .str _ => none

/-- An operand in a value position (R282). -/
def Operand.value : Operand → Option Value
  | .name n => some (.name n)
  | .int n => some (.int n)
  | .chr t => some (.chr t)
  | .str _ => none

/-- An operand in a label position: a name that is no register. -/
def Operand.label : Operand → Option Name
  | .name n => if (registerNamed n).isNone then some n else none
  | _ => none

/-- What follows the B in the mnemonic of a register-mode branch (R210); the relative branch's has an R more (R245). -/
def condLetters : List (Name × Cond) :=
  [(['R'], .always), (['L'], .l), (['G', 'E'], .ge), (['L', 'E'], .le), (['G'], .g), (['U', 'L', 'E'], .ule),
   (['U', 'G'], .ug), (['Z'], .z), (['N', 'Z'], .nz), (['C'], .c), (['N', 'C'], .nc), (['S'], .s),
   (['N', 'S'], .ns), (['V'], .v), (['N', 'V'], .nv)]

/-- What a name stands for in a table. -/
def tableEntry {α : Type} : List (Name × α) → Name → Option α
  | [], _ => none
  | (k, v) :: rest, n => if k = n then some v else tableEntry rest n

/-- Three-register instructions. -/
def threeRegisters : List (Name × (Reg → Reg → Reg → Instr)) :=
  [(['A', 'N', 'D'], .and), (['O', 'R'], .or), (['A', 'D', 'D'], .add), (['S', 'U', 'B'], .sub), (['M', 'U', 'L'], .mul),
   (['X', 'O', 'R'], .xor)]

/-- Statements of two registers. -/
def twoRegisters : List (Name × (Reg → Reg → Stmt)) :=
  [(['L', 'S', 'L'], fun d b => .machine (.lsl d b)), (['L', 'S', 'R'], fun d b => .machine (.lsr d b)),
   (['L', 'S', 'L', '8'], fun d b => .machine (.lsl8 d b)), (['L', 'S', 'R', '8'], fun d b => .machine (.lsr8 d b)),
   (['A', 'S', 'L'], fun d b => .machine (.asl d b)), (['A', 'S', 'R'], fun d b => .machine (.asr d b)),
   (['R', 'E', 'T', 'U', 'R', 'N'], fun a b => .machine (.ret a b)), (['M', 'O', 'V', 'E'], .move),
   (['C', 'M', 'P'], .cmp), (['N', 'E', 'G'], .neg), (['N', 'O', 'T'], .not)]

/-- Statements of one register. -/
def oneRegister : List (Name × (Reg → Stmt)) :=
  [(['S', 'A', 'V', 'E', 'F'], fun d => .machine (.savef d)), (['R', 'S', 'T', 'R', 'F'], fun d => .machine (.rstrf d)),
   (['F', 'L', 'A', 'G', 'S'], .flags)]

/-- Statements of a register and a value. -/
def registerAndValue : List (Name × (Reg → Value → Stmt)) :=
  [(['S', 'E', 'T', 'L', 'O'], .setlo), (['S', 'E', 'T', 'H', 'I'], .sethi), (['I', 'N', 'C'], .inc),
   (['D', 'E', 'C'], .dec), (['S', 'E', 'T'], .set), (['S', 'E', 'T', 'R', 'F'], .setrf)]

/-- LOAD and STORE. -/
def memoryStatements : List (Name × (Reg → Value → Reg → Stmt)) :=
  [(['L', 'O', 'A', 'D'], .load), (['S', 'T', 'O', 'R', 'E'], .store)]

/-- Statements of one value. -/
def oneValue : List (Name × (Value → Stmt)) :=
  [(['F', 'O', 'N'], .fon), (['F', 'O', 'F', 'F'], .foff), (['F', 'S', 'E', 'T', '5'], .fset5),
   (['F', 'S', 'E', 'T', '4'], .fset4), (['S', 'W', 'I'], .swi), (['O', 'P', 'C', 'O', 'D', 'E'], .opcode),
   (['I', 'N', 'T', 'E', 'G', 'E', 'R'], .integer), (['D', 'S', 'K', 'I', 'P'], .dskip)]

/-- Statements without operands. -/
def noOperands : List (Name × Stmt) :=
  [(['R', 'T', 'I'], .machine .rti), (['N', 'O', 'P'], .nop), (['H', 'A', 'L', 'T'], .halt), (['C', 'O', 'N'], .con),
   (['C', 'O', 'F', 'F'], .coff), (['C', 'B', 'O', 'N'], .cbon), (['C', 'C', 'B', 'O', 'F', 'F'], .ccboff)]

/-- A register-mode branch to a register or to a label (R297, R299). -/
def registerBranchStatement (cond : Cond) (x : Operand) : Option Stmt :=
  match x.reg with
  | some b => some (.machine (cond.registerBranch b))
  | none => x.label.map (.branchTo cond)

/-- A relative branch by a distance, an integer or a character (R282), or by a name, which `relativeDistance` looks up among
the labels and the values (R298, R300, R306). -/
def relativeBranchStatement (cond : Cond) (x : Operand) : Option Stmt :=
  match x with
  | .int o => some (.relative cond (.int o))
  | .chr t => some (.relative cond (.chr t))
  | _ => x.label.map (.relativeTo cond)

/-- A branch statement. -/
def branchStatement (n : Name) (x : Operand) : Option Stmt :=
  match n with
  | 'B' :: letters =>
    match tableEntry condLetters letters with
    | some cond => registerBranchStatement cond x
    | none =>
      (tableEntry (condLetters.map fun (k, cond) => (k ++ ['R'], cond)) letters).bind fun cond =>
        relativeBranchStatement cond x
  | _ => none

/-- A statement of one operand. -/
def statementOfOne (n : Name) (x : Operand) : Option Stmt :=
  match tableEntry oneRegister n, tableEntry oneValue n with
  | some build, _ => x.reg.map build
  | none, some build => x.value.map build
  | none, none =>
    if n = ['L', 'A', 'B', 'E', 'L'] then x.label.map .label
    else if n = ['D', 'L', 'A', 'B', 'E', 'L'] then x.label.map .dlabel
    else if n = ['L', 'P', '_', 'S', 'T', 'R', 'I', 'N', 'G'] then
      match x with
      | .str t => some (.lpString t)
      | _ => none
    else branchStatement n x

/-- A statement of two operands. -/
def statementOfTwo (n : Name) (x y : Operand) : Option Stmt :=
  match tableEntry twoRegisters n, tableEntry registerAndValue n with
  | some build, _ =>
    match x.reg, y.reg with
    | some a, some b => some (build a b)
    | _, _ => none
  | none, some build =>
    match x.reg, y.value with
    | some d, some v => some (build d v)
    | _, _ => none
  | none, none =>
    if n = ['C', 'A', 'L', 'L'] then
      match x.reg, y.reg, y.label with
      | some a, some b, _ => some (.machine (.call a b))
      | some a, none, some l => some (.callTo a l)
      | _, _, _ => none
    else if n = ['C', 'O', 'N', 'S', 'T', 'A', 'N', 'T'] then
      match x.label, y.value with
      | some k, some v => some (.constant k v)
      | _, _ => none
    else none

/-- A statement of three operands. -/
def statementOfThree (n : Name) (x y z : Operand) : Option Stmt :=
  match tableEntry threeRegisters n, tableEntry memoryStatements n with
  | some build, _ =>
    match x.reg, y.reg, z.reg with
    | some d, some a, some b => some (.machine (build d a b))
    | _, _, _ => none
  | none, some build =>
    match x.reg, y.value, z.reg with
    | some d, some o, some b => some (build d o b)
    | _, _, _ => none
  | none, none => none

/-- The statement a name and its operands write (R280, R318). -/
def statementOf (n : Name) (operands : List Operand) : Option Stmt :=
  match operands with
  | [] => tableEntry noOperands n
  | [x] => statementOfOne n x
  | [x, y] => statementOfTwo n x y
  | [x, y, z] => statementOfThree n x y z
  | _ => none

/-- Where the reader of statements stands. -/
inductive ParseMode where
  /-- before a statement -/
  | before
  /-- after a statement's name -/
  | named (n : Name)
  /-- among its operands: those read, and the tokens of the one at hand, each the last first -/
  | operands (n : Name) (done : List Operand) (current : List Token)
  deriving DecidableEq, Repr

/-- The operands of a statement at its closing parenthesis. -/
def closeOperands (done : List Operand) (current : List Token) : Option (List Operand) :=
  match done, current with
  | [], [] => some []
  | _, _ => (operandOf current.reverse).map fun x => (x :: done).reverse

/-- The statements of a program's tokens (R280). -/
def parseStatements : ParseMode → List Token → Except AsmError (List Stmt)
  | .before, [] => .ok []
  | _, [] => .error .badText
  | .before, .name n :: rest => parseStatements (.named n) rest
  | .before, _ :: _ => .error .badText
  | .named n, .openParen :: rest => parseStatements (.operands n [] []) rest
  | .named n, _ :: _ => .error (.badStatement n)
  | .operands n done current, .comma :: rest =>
    match operandOf current.reverse with
    | some x => parseStatements (.operands n (x :: done) []) rest
    | none => .error (.badStatement n)
  | .operands n done current, .closeParen :: rest =>
    match (closeOperands done current).bind (statementOf n) with
    | none => .error (.badStatement n)
    | some st =>
      match parseStatements .before rest with
      | .ok sts => .ok (st :: sts)
      | .error e => .error e
  | .operands n done current, t :: rest => parseStatements (.operands n done (t :: current)) rest

/-- A bound on the lines and tokens of a program, above what fills instruction memory. -/
def textFuel : Nat := 2 ^ 20

/-- The statements of a text (R280 to R282, R315, R316). -/
def readProgram (library : Library) (text : List Char) : Except AsmError (List Stmt) :=
  match lexText text with
  | .error e => .error e
  | .ok ts =>
    match preprocess library textFuel [] [] (splitLines ts) with
    | .error e => .error e
    | .ok us => parseStatements .before (withoutSpace us)

/-- The assembler on text, with its parameters as an argument (R314). -/
def assembleTextWith (o : ToolOptions) (library : Library) (text : List Char) : Except AsmError Image :=
  match readProgram library text with
  | .error e => .error e
  | .ok program => assembleWith o program

/-- The assembler on text with its parameters at the values of this spec (R314). -/
def assembleText (library : Library) (text : List Char) : Except AsmError Image :=
  assembleTextWith .standard library text

end Sys2Proof.Machine
end

