-- ==== Sys2Proof/Tests/Slice0.lean ====
section
/-! SUPPORT. The model's own tests: ill-formed terms refused, words of the spec decoded, single steps with the spec's
expected values, and a witness for the hypotheses of every obligation that has some. -/

namespace Sys2Proof.Tests

open Sys2Proof Sys2Proof.Machine

/-! ## Helpers -/

/-- A state with the flags, PC and registers given, everything else as at the start. -/
def stateWith (f : BitVec 5) (pc : Word) (regs : List (Reg × Word)) : State :=
  regs.foldl (fun s p => s.writeReg p.1 p.2) { State.start (Flags.ofBits f) with pc := pc }

/-- A register, the flags and the PC of a next state. -/
def seen (o : Result) (r : Reg) : Option (Word × BitVec 5 × Word) :=
  match o with
  | .next t => some (t.readReg r, t.flags.toBits, t.pc)
  | _ => none

/-- The fault of an outcome. -/
def stop (o : Result) : Option Fault :=
  match o with
  | .fault r => some r
  | _ => none

/-! ## WellFormed refuses a term for each of its checks (R93) -/

theorem test_inc_by_zero_refused : (Instr.inc 1 0).wellFormed = false := by decide
theorem test_dec_by_65_refused : (Instr.dec 1 65).wellFormed = false := by decide
theorem test_load_offset_32_refused : (Instr.load 1 32 2).wellFormed = false := by decide
theorem test_store_offset_32_refused : (Instr.store 1 32 2).wellFormed = false := by decide
theorem test_distance_128_refused : (Instr.brr 128).wellFormed = false := by decide
theorem test_distance_minus_129_refused : (Instr.bnvr (-129)).wellFormed = false := by decide
theorem test_interrupt_16_refused : (Instr.swi 16).wellFormed = false := by decide
theorem test_amounts_1_and_64_accepted : (Instr.inc 1 1).wellFormed && (Instr.dec 1 64).wellFormed = true := by decide

/-! ## Words written out from the encodings (R82 to R94; worked words of 30_encoding.md and 95_test_vectors.md) -/

theorem test_decode_setlo : decode 0xE1B6#16 = .ok (.setlo 1 0xB6#8) := by rfl
theorem test_decode_sethi : decode 0xFBC0#16 = .ok (.sethi 11 0xC0#8) := by rfl
theorem test_decode_and : decode 0x8312#16 = .ok (.and 3 1 2) := by rfl
theorem test_decode_or : decode 0x9CF0#16 = .ok (.or 12 15 0) := by rfl
theorem test_decode_add : decode 0xA246#16 = .ok (.add 2 4 6) := by rfl
theorem test_decode_sub : decode 0xB523#16 = .ok (.sub 5 2 3) := by rfl
theorem test_decode_mul : decode 0xC1B1#16 = .ok (.mul 1 11 1) := by rfl
theorem test_decode_xor : decode 0xD1B2#16 = .ok (.xor 1 11 2) := by rfl
theorem test_decode_inc : decode 0x3185#16 = .ok (.inc 1 6) := by rfl
theorem test_decode_dec : decode 0x3FC3#16 = .ok (.dec 15 4) := by rfl
theorem test_decode_lsl : decode 0x3102#16 = .ok (.lsl 1 2) := by rfl
theorem test_decode_lsr : decode 0x3111#16 = .ok (.lsr 1 1) := by rfl
theorem test_decode_lsl8 : decode 0x3122#16 = .ok (.lsl8 1 2) := by rfl
theorem test_decode_lsr8 : decode 0x3132#16 = .ok (.lsr8 1 2) := by rfl
theorem test_decode_asl : decode 0x3142#16 = .ok (.asl 1 2) := by rfl
theorem test_decode_asr : decode 0x3152#16 = .ok (.asr 1 2) := by rfl
theorem test_decode_savef : decode 0x3570#16 = .ok (.savef 5) := by rfl
theorem test_decode_rstrf : decode 0x3578#16 = .ok (.rstrf 5) := by rfl
theorem test_decode_fon : decode 0x3165#16 = .ok (.fon 0x15#5) := by rfl
theorem test_decode_foff : decode 0x386A#16 = .ok (.foff 0x0A#5) := by rfl
theorem test_decode_fset5 : decode 0x3562#16 = .ok (.fset5 0x12#5) := by rfl
theorem test_decode_fset4 : decode 0x3C65#16 = .ok (.fset4 0x05#5) := by rfl
theorem test_decode_load : decode 0x5732#16 = .ok (.load 7 0x13 2) := by rfl
theorem test_decode_store : decode 0x7732#16 = .ok (.store 7 0x13 2) := by rfl
theorem test_decode_br : decode 0x100B#16 = .ok (.br 11) := by rfl
theorem test_decode_bl : decode 0x120B#16 = .ok (.bl 11) := by rfl
theorem test_decode_bge : decode 0x130B#16 = .ok (.bge 11) := by rfl
theorem test_decode_ble : decode 0x140B#16 = .ok (.ble 11) := by rfl
theorem test_decode_bg : decode 0x150B#16 = .ok (.bg 11) := by rfl
theorem test_decode_bule : decode 0x160B#16 = .ok (.bule 11) := by rfl
theorem test_decode_bug : decode 0x170B#16 = .ok (.bug 11) := by rfl
theorem test_decode_bz : decode 0x180B#16 = .ok (.bz 11) := by rfl
theorem test_decode_bnz : decode 0x190B#16 = .ok (.bnz 11) := by rfl
theorem test_decode_bc : decode 0x1A0B#16 = .ok (.bc 11) := by rfl
theorem test_decode_bnc : decode 0x1B0B#16 = .ok (.bnc 11) := by rfl
theorem test_decode_bs : decode 0x1C0B#16 = .ok (.bs 11) := by rfl
theorem test_decode_bns : decode 0x1D0B#16 = .ok (.bns 11) := by rfl
theorem test_decode_bv : decode 0x1E0B#16 = .ok (.bv 11) := by rfl
theorem test_decode_bnv : decode 0x1F0B#16 = .ok (.bnv 11) := by rfl
theorem test_decode_brr : decode 0x00FD#16 = .ok (.brr (-3)) := by rfl
theorem test_decode_blr : decode 0x02FD#16 = .ok (.blr (-3)) := by rfl
theorem test_decode_bger : decode 0x03FD#16 = .ok (.bger (-3)) := by rfl
theorem test_decode_bler : decode 0x04FD#16 = .ok (.bler (-3)) := by rfl
theorem test_decode_bgr : decode 0x05FD#16 = .ok (.bgr (-3)) := by rfl
theorem test_decode_buler : decode 0x06FD#16 = .ok (.buler (-3)) := by rfl
theorem test_decode_bugr : decode 0x07FD#16 = .ok (.bugr (-3)) := by rfl
theorem test_decode_bzr : decode 0x08FD#16 = .ok (.bzr (-3)) := by rfl
theorem test_decode_bnzr : decode 0x09FD#16 = .ok (.bnzr (-3)) := by rfl
theorem test_decode_bcr : decode 0x0AFD#16 = .ok (.bcr (-3)) := by rfl
theorem test_decode_bncr : decode 0x0BFD#16 = .ok (.bncr (-3)) := by rfl
theorem test_decode_bsr : decode 0x0CFD#16 = .ok (.bsr (-3)) := by rfl
theorem test_decode_bnsr : decode 0x0DFD#16 = .ok (.bnsr (-3)) := by rfl
theorem test_decode_bvr : decode 0x0EFD#16 = .ok (.bvr (-3)) := by rfl
theorem test_decode_bnvr : decode 0x0FFD#16 = .ok (.bnvr (-3)) := by rfl
theorem test_decode_call : decode 0x20CD#16 = .ok (.call 12 13) := by rfl
theorem test_decode_ret : decode 0x21CD#16 = .ok (.ret 12 13) := by rfl
theorem test_decode_swi : decode 0x2203#16 = .ok (.swi 3) := by rfl
theorem test_decode_rti : decode 0x2300#16 = .ok (.rti) := by rfl

/-! Words of the eight unassigned sets (R95) -/

theorem test_unassigned_uA : decode 0x01FF#16 = .error .uA := by rfl
theorem test_unassigned_uB : decode 0x1100#16 = .error .uB := by rfl
theorem test_unassigned_uC : decode 0x1310#16 = .error .uC := by rfl
theorem test_unassigned_uD : decode 0x2210#16 = .error .uD := by rfl
theorem test_unassigned_uE : decode 0x2301#16 = .error .uE := by rfl
theorem test_unassigned_uF : decode 0x2400#16 = .error .uF := by rfl
theorem test_unassigned_uG : decode 0x3260#16 = .error .uG := by rfl
theorem test_unassigned_uH : decode 0x3579#16 = .error .uH := by rfl

/-! ## Single instructions (the examples and corner cases of their rules) -/

theorem test_setlo_extends_sign :
    seen (exec (.setlo 1 0xB6#8) (stateWith 0x1F#5 0x0000#16 [])) 1 = some (0xFFB6#16, 0x1F#5, 0x0001#16) := by
  decide
theorem test_sethi_keeps_low_byte :
    seen (exec (.sethi 11 0xC0#8) (stateWith 0x0A#5 0x0001#16 [(11, 0x0001#16)])) 11 = some (0xC001#16, 0x0A#5, 0x0002#16) := by
  decide
theorem test_and_keeps_v_and_c :
    seen (exec (.and 3 1 2) (stateWith 0x1F#5 0x0000#16 [(1, 0xF0F0#16), (2, 0x3C3C#16)])) 3 = some (0x3030#16, 0x1C#5, 0x0001#16) := by
  decide
theorem test_or_copies :
    seen (exec (.or 12 15 0) (stateWith 0x03#5 0x0000#16 [(15, 0x0005#16)])) 12 = some (0x0005#16, 0x00#5, 0x0001#16) := by
  decide
theorem test_add_signed_overflow :
    seen (exec (.add 3 1 2) (stateWith 0x00#5 0x0000#16 [(1, 0x7FFF#16), (2, 0x0001#16)])) 3 = some (0x8000#16, 0x05#5, 0x0001#16) := by
  decide
theorem test_add_takes_carry_and_pc_wraps :
    seen (exec (.add 1 1 2) (stateWith 0x08#5 0xFFFF#16 [(1, 0xFFFF#16)])) 1 = some (0x0000#16, 0x0A#5, 0x0000#16) := by
  decide
theorem test_sub_takes_borrow :
    seen (exec (.sub 3 1 2) (stateWith 0x00#5 0x0000#16 [(1, 0x8000#16)])) 3 = some (0x7FFF#16, 0x0C#5, 0x0001#16) := by
  decide
theorem test_sub_equal_sets_carry :
    seen (exec (.sub 0 1 1) (stateWith 0x10#5 0x0000#16 [(1, 0x0005#16)])) 0 = some (0x0000#16, 0x1A#5, 0x0001#16) := by
  decide
theorem test_mul_low_flags :
    seen (exec (.mul 3 1 2) (stateWith 0x10#5 0x0000#16 [(1, 0x0100#16), (2, 0x0100#16)])) 3 = some (0x0000#16, 0x1E#5, 0x0001#16) := by
  decide
theorem test_mul_low_sign_agnostic :
    seen (exec (.mul 3 1 1) (stateWith 0x00#5 0x0000#16 [(1, 0xFFFF#16)])) 3 = some (0x0001#16, 0x08#5, 0x0001#16) := by
  decide
theorem test_mul_high_word :
    (match exec (.mul 3 1 2) (stateWith 0x01#5 0#16 [(1, 0x7FFF#16), (2, 0x7FFF#16)]) with
      | .next t => t.readReg 3
      | _ => 0#16) = 0x3FFF#16 := by
  decide
theorem test_xor_complements :
    seen (exec (.xor 1 11 2) (stateWith 0x10#5 0x0000#16 [(11, 0xFFFF#16), (2, 0x00FF#16)])) 1 = some (0xFF00#16, 0x11#5, 0x0001#16) := by
  decide
theorem test_inc_wraps :
    seen (exec (.inc 1 64) (stateWith 0x08#5 0x0000#16 [(1, 0xFFC0#16)])) 1 = some (0x0000#16, 0x0A#5, 0x0001#16) := by
  decide
theorem test_inc_r0_sets_flags_only :
    seen (exec (.inc 0 5) (stateWith 0x1F#5 0x0000#16 [])) 0 = some (0x0000#16, 0x10#5, 0x0001#16) := by
  decide
theorem test_dec_below_zero :
    seen (exec (.dec 3 1) (stateWith 0x00#5 0x000D#16 [])) 3 = some (0xFFFF#16, 0x01#5, 0x000E#16) := by
  decide
theorem test_dec_overflow :
    seen (exec (.dec 1 1) (stateWith 0x00#5 0x0000#16 [(1, 0x8000#16)])) 1 = some (0x7FFF#16, 0x0C#5, 0x0001#16) := by
  decide
theorem test_lsl_rotates_carry_in :
    seen (exec (.lsl 2 1) (stateWith 0x08#5 0x0000#16 [(1, 0x8000#16)])) 2 = some (0x0001#16, 0x08#5, 0x0001#16) := by
  decide
theorem test_lsl_leaves_v :
    seen (exec (.lsl 2 1) (stateWith 0x14#5 0x0000#16 [(1, 0x4000#16)])) 2 = some (0x8000#16, 0x15#5, 0x0001#16) := by
  decide
theorem test_lsr_rotates_carry_in :
    seen (exec (.lsr 2 1) (stateWith 0x08#5 0x0000#16 [(1, 0x0001#16)])) 2 = some (0x8000#16, 0x09#5, 0x0001#16) := by
  decide
theorem test_lsl8_loses_high_byte :
    seen (exec (.lsl8 1 2) (stateWith 0x0C#5 0x0000#16 [(2, 0x12FF#16)])) 1 = some (0xFF00#16, 0x0D#5, 0x0001#16) := by
  decide
theorem test_lsr8_is_logical :
    seen (exec (.lsr8 1 2) (stateWith 0x08#5 0x0000#16 [(2, 0x8000#16)])) 1 = some (0x0080#16, 0x08#5, 0x0001#16) := by
  decide
theorem test_asl_overflow :
    seen (exec (.asl 2 1) (stateWith 0x00#5 0x0000#16 [(1, 0x4000#16)])) 2 = some (0x8000#16, 0x05#5, 0x0001#16) := by
  decide
theorem test_asl_fits :
    seen (exec (.asl 2 1) (stateWith 0x04#5 0x0000#16 [(1, 0xC000#16)])) 2 = some (0x8000#16, 0x09#5, 0x0001#16) := by
  decide
theorem test_asr_rounds_down :
    seen (exec (.asr 1 2) (stateWith 0x08#5 0x0000#16 [(2, 0xFFFD#16)])) 1 = some (0xFFFE#16, 0x09#5, 0x0001#16) := by
  decide
theorem test_asr_drops_old_carry :
    seen (exec (.asr 1 2) (stateWith 0x08#5 0x0000#16 [(2, 0x0001#16)])) 1 = some (0x0000#16, 0x0A#5, 0x0001#16) := by
  decide
theorem test_savef_saves_all_five :
    seen (exec (.savef 5) (stateWith 0x1A#5 0x0000#16 [(5, 0xFFFF#16)])) 5 = some (0x001A#16, 0x1A#5, 0x0001#16) := by
  decide
theorem test_rstrf_ignores_high_bits :
    seen (exec (.rstrf 5) (stateWith 0x05#5 0x0000#16 [(5, 0xFFFA#16)])) 5 = some (0xFFFA#16, 0x1A#5, 0x0001#16) := by
  decide
theorem test_fon_example :
    seen (exec (.fon 0x15#5) (stateWith 0x0A#5 0x0000#16 [])) 1 = some (0x0000#16, 0x1F#5, 0x0001#16) := by
  decide
theorem test_foff_example :
    seen (exec (.foff 0x0A#5) (stateWith 0x1F#5 0x0000#16 [])) 1 = some (0x0000#16, 0x15#5, 0x0001#16) := by
  decide
theorem test_fset5_example :
    seen (exec (.fset5 0x12#5) (stateWith 0x0F#5 0x0000#16 [])) 1 = some (0x0000#16, 0x12#5, 0x0001#16) := by
  decide
theorem test_fset4_keeps_carry_block :
    seen (exec (.fset4 0x05#5) (stateWith 0x1A#5 0x0000#16 [])) 1 = some (0x0000#16, 0x15#5, 0x0001#16) := by
  decide
theorem test_load_example :
    seen (exec (.load 7 0x13 2) ((stateWith 0x0C#5 0#16 [(2, 0xC000#16)]).writeData 0xC013#16 0x8001#16)) 7
      = some (0x8001#16, 0x0D#5, 1#16) := by
  decide
theorem test_load_address_wraps :
    seen (exec (.load 1 1 1) ((stateWith 0#5 0#16 [(1, 0xFFFF#16)]).writeData 0#16 0#16)) 1
      = some (0#16, 0x02#5, 1#16) := by
  decide
theorem test_store_writes_one_cell :
    (match exec (.store 1 3 12) (stateWith 0x1F#5 0#16 [(1, 7#16), (12, 5#16)]) with
      | .next t => (t.dmem, t.flags.toBits, t.pc)
      | _ => ([], 0#5, 0#16)) = ([(8, 7#16)], 0x1F#5, 1#16) := by
  decide

/-- The PCs after a branch on the flags of the five comparisons S1 to S5 of R244 (F = 01, 08, 0A, 0C, 05). -/
def pcsAfter (i : Instr) : List Word :=
  [0x01#5, 0x08#5, 0x0A#5, 0x0C#5, 0x05#5].map fun f =>
    match exec i (stateWith f 0x0206#16 [(11, 0x0300#16)]) with
    | .next t => t.pc
    | _ => 0#16

/-- The PCs that rows S1 to S5 of the table of R244 give: the target where the table has T. -/
def pcsWhere (target : Word) (taken : List Bool) : List Word := taken.map fun b => if b then target else 0x0207#16

theorem test_br : pcsAfter (.br 11) = pcsWhere 0x0300#16 [true, true, true, true, true] := by decide
theorem test_bl : pcsAfter (.bl 11) = pcsWhere 0x0300#16 [true, false, false, true, false] := by decide
theorem test_bge : pcsAfter (.bge 11) = pcsWhere 0x0300#16 [false, true, true, false, true] := by decide
theorem test_ble : pcsAfter (.ble 11) = pcsWhere 0x0300#16 [true, false, true, true, false] := by decide
theorem test_bg : pcsAfter (.bg 11) = pcsWhere 0x0300#16 [false, true, false, false, true] := by decide
theorem test_bule : pcsAfter (.bule 11) = pcsWhere 0x0300#16 [true, false, true, false, true] := by decide
theorem test_bug : pcsAfter (.bug 11) = pcsWhere 0x0300#16 [false, true, false, true, false] := by decide
theorem test_bz : pcsAfter (.bz 11) = pcsWhere 0x0300#16 [false, false, true, false, false] := by decide
theorem test_bnz : pcsAfter (.bnz 11) = pcsWhere 0x0300#16 [true, true, false, true, true] := by decide
theorem test_bc : pcsAfter (.bc 11) = pcsWhere 0x0300#16 [false, true, true, true, false] := by decide
theorem test_bnc : pcsAfter (.bnc 11) = pcsWhere 0x0300#16 [true, false, false, false, true] := by decide
theorem test_bs : pcsAfter (.bs 11) = pcsWhere 0x0300#16 [true, false, false, false, true] := by decide
theorem test_bns : pcsAfter (.bns 11) = pcsWhere 0x0300#16 [false, true, true, true, false] := by decide
theorem test_bv : pcsAfter (.bv 11) = pcsWhere 0x0300#16 [false, false, false, true, true] := by decide
theorem test_bnv : pcsAfter (.bnv 11) = pcsWhere 0x0300#16 [true, true, true, false, false] := by decide
theorem test_brr : pcsAfter (.brr (-3)) = pcsWhere 0x0203#16 [true, true, true, true, true] := by decide
theorem test_blr : pcsAfter (.blr (-3)) = pcsWhere 0x0203#16 [true, false, false, true, false] := by decide
theorem test_bger : pcsAfter (.bger (-3)) = pcsWhere 0x0203#16 [false, true, true, false, true] := by decide
theorem test_bler : pcsAfter (.bler (-3)) = pcsWhere 0x0203#16 [true, false, true, true, false] := by decide
theorem test_bgr : pcsAfter (.bgr (-3)) = pcsWhere 0x0203#16 [false, true, false, false, true] := by decide
theorem test_buler : pcsAfter (.buler (-3)) = pcsWhere 0x0203#16 [true, false, true, false, true] := by decide
theorem test_bugr : pcsAfter (.bugr (-3)) = pcsWhere 0x0203#16 [false, true, false, true, false] := by decide
theorem test_bzr : pcsAfter (.bzr (-3)) = pcsWhere 0x0203#16 [false, false, true, false, false] := by decide
theorem test_bnzr : pcsAfter (.bnzr (-3)) = pcsWhere 0x0203#16 [true, true, false, true, true] := by decide
theorem test_bcr : pcsAfter (.bcr (-3)) = pcsWhere 0x0203#16 [false, true, true, true, false] := by decide
theorem test_bncr : pcsAfter (.bncr (-3)) = pcsWhere 0x0203#16 [true, false, false, false, true] := by decide
theorem test_bsr : pcsAfter (.bsr (-3)) = pcsWhere 0x0203#16 [true, false, false, false, true] := by decide
theorem test_bnsr : pcsAfter (.bnsr (-3)) = pcsWhere 0x0203#16 [false, true, true, true, false] := by decide
theorem test_bvr : pcsAfter (.bvr (-3)) = pcsWhere 0x0203#16 [false, false, false, true, true] := by decide
theorem test_bnvr : pcsAfter (.bnvr (-3)) = pcsWhere 0x0203#16 [true, true, true, false, false] := by decide
theorem test_brr_wraps : seen (exec (.brr (-4)) (stateWith 0#5 2#16 [])) 0 = some (0#16, 0#5, 0xFFFE#16) := by decide

/-- R260's example, Figure 7.4. -/
theorem test_call_example :
    (match exec (.call 12 13) (stateWith 0x1F#5 5#16 [(13, 0x0C#16)]) with
      | .next t => (t.pc, t.readReg 13, t.readReg 14, t.readReg 12, t.flags.toBits)
      | _ => (0, 0, 0, 0, 0)) = (0x0C#16, 6#16, 0#16, 0#16, 0x1F#5) := by
  decide
theorem test_call_exchanges_frame_pointers :
    (match exec (.call 12 13) (stateWith 0#5 5#16 [(12, 100#16), (13, 9#16), (14, 40#16)]) with
      | .next t => (t.pc, t.readReg 13, t.readReg 14, t.readReg 12)
      | _ => (0, 0, 0, 0)) = (9#16, 6#16, 100#16, 40#16) := by
  decide
/-- R261's example. -/
theorem test_return_example :
    (match exec (.ret 12 13) (stateWith 0#5 0x0F#16 [(13, 6#16)]) with
      | .next t => (t.pc, t.readReg 13, t.readReg 14, t.readReg 12)
      | _ => (0, 0, 0, 0)) = (6#16, 0x10#16, 0#16, 0#16) := by
  decide
theorem test_call_a_14_is_no_collision :
    (match exec (.call 14 13) (stateWith 0#5 5#16 [(13, 9#16), (14, 40#16)]) with
      | .next t => (t.pc, t.readReg 13, t.readReg 14)
      | _ => (0, 0, 0)) = (9#16, 6#16, 40#16) := by
  decide
theorem test_swi_stops : stop (exec (.swi 3) (State.start (Flags.ofBits 0#5))) = some .interruptOpcode := by decide
theorem test_rti_stops : stop (exec .rti (State.start (Flags.ofBits 0#5))) = some .interruptOpcode := by decide

/-! ## Steps and the assembler -/

theorem test_step_fetches_the_placed_word :
    seen (step ((State.start (Flags.ofBits 0x1F#5)).withFetchWord 16 0x3185)) 1 = some (6#16, 0x10#5, 1#16) := by
  decide
theorem test_reset_has_no_program : stop (step State.reset) = some .fetchOutsideProgram := by decide
theorem test_unassigned_word_stops :
    stop (step (State.reset.withFetchWord 16 0x2400)) = some (.unassignedEncoding .uF) := by
  decide

/-- R296's example: the register-mode variant of Figure 5.1 placed from 0x0200; its words are those of the source (E13, with
BGE(L) as three words). -/
theorem test_assemble_figure_5_1 :
    (match assembleAt 0x0200 0xC001
        [.cbon, .setlo 1 (.int 0xB6), .cmp 1 0, .branchTo .ge ['S'], .neg 1 1, .label ['S'], .machine (.lsr 1 1)] with
      | .ok img => img.code
      | .error _ => []) =
      [0x3160#16, 0xE1B6#16, 0x3068#16, 0xB010#16, 0xEB09#16, 0xFB02#16, 0x130B#16, 0x3068#16, 0xB101#16, 0x3111#16] := by
  decide
/-- R312: the first data cell is 0xC001; a string is its length and its characters (R309). -/
theorem test_assemble_data :
    (match assemble [.dlabel ['X'], .integer (.int (-1)), .lpString ['I', 's'], .set 11 (.name ['X'])] with
      | .ok img => (img.code, img.data)
      | .error _ => ([], [])) =
      ([0xEB01#16, 0xFBC0#16],
        [(0xC001, 0xFFFF#16), (0xC002, 2#16), (0xC003, 0x49#16), (0xC004, 0x73#16)]) := by
  decide

/-- R319, U25: CMP is two words, and one where the tool says that carry-block is on; Figure 5.1's CMP(R1,R0) is 3068 b010. -/
theorem test_short_cmp_is_an_option :
    (match assembleWith { ToolOptions.standard with shortCmpAt := fun n => n == 2 } [.cmp 1 0, .cbon, .cmp 1 0] with
      | .ok img => img.code
      | .error _ => []) = [0x3068#16, 0xB010#16, 0x3160#16, 0xB010#16] := by
  decide

/-- R280 to R282, R315: a text with a macro continued over a line end, a comment, a character and an alias. -/
theorem test_assemble_text :
    (match assembleText []
        ['#', 'd', 'e', 'f', 'i', 'n', 'e', ' ', 'M', '(', 'd', ',', 'a', ')', ' ', '\\', '\n', ' ', 'A', 'D',
          'D', '(', 'd', ',', 'a', ',', 'a', ')', ' ', '/', '/', ' ', 'x', '\n', ' ', 'C', 'B', 'O', 'N', '(',
          ')', ' ', 'S', 'E', 'T', 'L', 'O', '(', 'R', '1', ',', ' ', '\'', 'X', '\'', ')', ' ', 'M', '(', 'R',
          '2', ',', 'R', 't', ')'] with
      | .ok img => img.code
      | .error _ => []) = [0x3160#16, 0xE158#16, 0xA2BB#16] := by
  decide +kernel

/-- R315 as C expands macros: a use inside an argument of the same macro; a body that ends in a macro's name, whose
arguments follow the use. -/
theorem test_assemble_text_nested_macros :
    (match assembleText []
        ['#', 'd', 'e', 'f', 'i', 'n', 'e', ' ', 'M', '(', 'x', ')', ' ', 'x', '\n', '#', 'd', 'e', 'f', 'i',
          'n', 'e', ' ', 'G', ' ', 'M', '\n', 'M', '(', 'M', '(', 'N', 'O', 'P', '(', ')', ')', ')', ' ', 'G',
          '(', 'R', 'T', 'I', '(', ')', ')'] with
      | .ok img => img.code
      | .error _ => []) = [0x0001#16, 0x2300#16] := by
  decide +kernel

/-- R315, C's operator ##: a label made from an argument; R282, R306: a CONSTANT name, a character and a label as distances. -/
theorem test_assemble_text_joined_words :
    (match assembleText []
        ['#', 'd', 'e', 'f', 'i', 'n', 'e', ' ', 'L', '(', 'n', ')', ' ', 'L', 'A', 'B', 'E', 'L', '(', 'X',
          '#', '#', 'n', ')', '\n', 'C', 'O', 'N', 'S', 'T', 'A', 'N', 'T', '(', 'K', ',', '-', '4', ')', ' ',
          'L', '(', '1', ')', ' ', 'B', 'R', 'R', '(', 'K', ')', ' ', 'B', 'R', 'R', '(', '\'', '"', '\'',
          ')', ' ', 'B', 'R', 'R', '(', 'X', '1', ')'] with
      | .ok img => img.code
      | .error _ => []) = [0x00FC#16, 0x0022#16, 0x00FE#16] := by
  decide +kernel

/-- R6, R263, R264: with an INTERRUPT_MODEL as argument SWI and RTI do what it says; this one saves PC + 1 beside the machine, and
gives RTI no effect when nothing is saved. -/
def savingModel : InterruptModel Word :=
  { swi := fun i s _ => some (s.jump (BitVec.ofNat 16 (0x0100 + i)), s.nextPc)
    rti := fun s saved => if saved = 0#16 then none else some (s.jump saved, 0#16)
    signal := fun n s _ => if s.flags.cb then some (s.jump (BitVec.ofNat 16 n), s.pc) else none }
theorem test_platform_runs_swi :
    (match stepOn { memory := .separate, interrupts := some savingModel } none
        ((stateWith 0#5 5#16 []).withFetchWord 16 0x2203) 0#16 with
      | .next (t, saved) => (t.pc, saved)
      | _ => (0, 0)) = (0x0103#16, 6#16) := by
  decide
theorem test_platform_rti_without_interrupt_stops :
    (match stepOn ({ memory := .separate, interrupts := some savingModel } : Platform Word) none
        ((stateWith 0#5 5#16 []).withFetchWord 16 0x2300) 0#16 with
      | .fault r => some r
      | _ => none) = some .interruptOpcode := by
  decide
/-- R6, R51, R61: with HARVARD false and a rule that fetches from data memory, a stored word runs. -/
theorem test_platform_with_one_memory :
    (match stepOn ({ memory := .unified (fun s _ => some (s.readData s.pc)), interrupts := none } : Platform Unit) none
        ((stateWith 0#5 5#16 []).writeData 5#16 0x3185#16) () with
      | .next (t, _) => t.readReg 1
      | _ => 0) = 6#16 := by
  decide

/-! ## Witnesses: for each obligation with hypotheses, states and operands that meet them -/

/-- A state whose memories and registers hold something. -/
def sample (f : BitVec 5) : State :=
  ((stateWith f 0x0010#16 [(1, 3#16), (2, 5#16), (3, 0xFFFF#16)]).writeData 8#16 9#16).placeInstruction 0x0010#16 0#16

theorem witness_MulModesByFlags :
    (sample 0x00#5).flags.toBits = 0x00#5 ∧ 0x10#5 ≤ (sample 0x10#5).flags.toBits ∧
    0x10#5 ≤ (sample 0x1F#5).flags.toBits ∧ (sample 0x01#5).flags.toBits = 0x01#5 ∧
    (0x02#5 ≤ (sample 0x02#5).flags.toBits ∧ (sample 0x02#5).flags.toBits ≤ 0x0F#5) ∧
    (0x02#5 ≤ (sample 0x0F#5).flags.toBits ∧ (sample 0x0F#5).flags.toBits ≤ 0x0F#5) := by
  decide
theorem witness_MulSequenceGivesSignedProduct :
    (1 : Reg) ≠ 0 ∧ (2 : Reg) ≠ 0 ∧ (1 : Reg) ≠ 2 ∧ (2 : Reg) ≠ 3 ∧ (2 : Reg) ≠ 1 := by
  decide
theorem witness_IncAddsItsAmount :
    (1 ≤ 1 ∧ 1 ≤ 64) ∧ (1 ≤ 64 ∧ 64 ≤ 64) := by
  decide
theorem witness_DecSubtractsItsAmount :
    (1 ≤ 1 ∧ 1 ≤ 64) ∧ (1 ≤ 64 ∧ 64 ≤ 64) := by
  decide
theorem witness_BlockedArithmeticIgnoresOtherFlags :
    (sample 0x10#5).flags.cb = true ∧ (Flags.ofBits 0x1F#5).cb = true := by
  decide
theorem witness_ShiftPairsChainThroughCarry :
    (1 : Reg) ≠ 0 ∧ (2 : Reg) ≠ 0 ∧ (1 : Reg) ≠ 2 ∧ (sample 0x0F#5).flags.cb = false := by
  decide
theorem witness_RstrfRestoresWhatSavefSaved :
    ∃ t, exec (.savef 5) (sample 0x1A#5) = .next t ∧ (t.writeReg 6 1#16).readReg 5 = t.readReg 5 := by
  exact ⟨_, rfl, by decide⟩
theorem witness_LoadReadsTheAddressedCell :
    0 ≤ 31 ∧ 31 ≤ 31 := by
  decide
theorem witness_StoreWritesTheAddressedCellOnly :
    (0 ≤ 31 ∧ 31 ≤ 31) ∧ (0#16 : Word) ≠ (sample 0#5).effectiveAddress 31 1 := by
  decide
theorem witness_OnlyStoreChangesMemory :
    (∃ t, exec (.xor 1 2 3) (sample 0#5) = .next t) ∧ (∀ d o b, Instr.xor 1 2 3 ≠ .store d o b) ∧
    ∃ t, exec (.store 1 2 3) (sample 0#5) = .next t := by
  exact ⟨⟨_, rfl⟩, nofun, ⟨_, rfl⟩⟩
theorem witness_RelativeBranchesOnOrder :
    ((-128 : Int) ≤ -128 ∧ (-128 : Int) ≤ 127) ∧ ((-128 : Int) ≤ 127 ∧ (127 : Int) ≤ 127) := by
  decide
theorem witness_RelativeBranchesOnOneFlag :
    ((-128 : Int) ≤ -128 ∧ (-128 : Int) ≤ 127) ∧ ((-128 : Int) ≤ 127 ∧ (127 : Int) ≤ 127) := by
  decide
theorem witness_HaltEndsTheRun :
    (sample 0x1F#5).fetch = some 0x0000#16 ∧ Reaches (sample 0x1F#5) (sample 0x1F#5) := by
  exact ⟨by decide, .refl⟩
theorem witness_NopOnlyAdvances :
    ((sample 0#5).placeInstruction 0x0010#16 1#16).fetch = some 0x0001#16 := by
  decide
theorem witness_OtherInstructionsAdvanceByOne :
    instrMovesPc (.inc 1 1) = false ∧ ∃ t, exec (.inc 1 1) (stateWith 0#5 0xFFFF#16 []) = .next t := by
  exact ⟨rfl, _, rfl⟩
theorem witness_CallAndReturnExchange :
    (((12 : Reg) = 13 → (12 : Reg) = 0) ∧ (13 : Reg) ≠ 14) ∧ (((0 : Reg) = 0 → (0 : Reg) = 0) ∧ (0 : Reg) ≠ 14) ∧
    ((14 : Reg) = 13 → (14 : Reg) = 0) := by
  decide
theorem witness_CollidingCallsHaveNoResult :
    (((1 : Reg) = 1 ∧ (1 : Reg) ≠ 0) ∨ (1 : Reg) = 14) ∧ (((0 : Reg) = 14 ∧ (0 : Reg) ≠ 0) ∨ (14 : Reg) = 14) := by
  decide
theorem witness_ReturnUndoesCall :
    ((12 : Reg) ≠ 0 ∧ (13 : Reg) ≠ 0 ∧ (12 : Reg) ≠ 13 ∧ (13 : Reg) ≠ 14) ∧
    ∃ t, exec (.call 12 13) (sample 0#5) = .next t ∧
      (t.writeReg 1 7#16).readReg 12 = t.readReg 12 ∧ (t.writeReg 1 7#16).readReg 13 = t.readReg 13 := by
  exact ⟨by decide, _, rfl, by decide, by decide⟩
theorem witness_InterruptCodesStopWithAFault :
    0 ≤ 15 ∧ 15 ≤ 15 := by
  decide
theorem witness_OnlyFourInstructionsWriteCarryBlock :
    (∃ t, exec (.add 1 2 3) (sample 0x10#5) = .next t) ∧ (∀ d, Instr.add 1 2 3 ≠ .rstrf d) ∧
    (∀ v, Instr.add 1 2 3 ≠ .fon v) ∧ (∀ v, Instr.add 1 2 3 ≠ .foff v) ∧ (∀ v, Instr.add 1 2 3 ≠ .fset5 v) := by
  exact ⟨⟨_, rfl⟩, nofun, nofun, nofun, nofun⟩
theorem witness_FlagTableIsRespected :
    ∃ t, exec (.lsl8 1 2) (sample 0x0C#5) = .next t := by
  exact ⟨_, rfl⟩
theorem witness_SignAndZeroDescribeTheResult :
    (1 : Reg) ≠ 0 ∧ Instr.mul 1 2 3 ∈ [Instr.and 1 2 3, .or 1 2 3, .xor 1 2 3, .add 1 2 3, .sub 1 2 3, .mul 1 2 3, .inc 1 4,
      .dec 1 4, .lsl 1 3, .lsr 1 3, .lsl8 1 3, .lsr8 1 3, .asl 1 3, .asr 1 3, .load 1 5 3] ∧
    ∃ t, exec (.mul 1 2 3) (sample 0x01#5) = .next t := by
  exact ⟨by decide, by decide, _, rfl⟩
theorem witness_FlagsDoNotReachOtherResults :
    readsFlags (.asr 1 2) = false ∧ ∃ t, exec (.asr 1 2) (sample 0x08#5) = .next t := by
  exact ⟨rfl, _, rfl⟩
theorem witness_StepRunsTheDecodedInstruction :
    (sample 0#5).imem.read? (sample 0#5).pc.toNat = some 0#16 ∧ decode 0#16 = .ok (.brr 0) := by
  exact ⟨by decide, rfl⟩
theorem witness_FetchAndDecodeComeFirst :
    State.reset.imem.read? State.reset.pc.toNat = none ∧
    (State.reset.withFetchWord 16 0x0100).imem.read? 0 = some 0x0100#16 ∧ decode 0x0100#16 = .error .uA := by
  exact ⟨by decide, by decide, rfl⟩
theorem witness_StepKeepsTheStateCanonical :
    (sample 0#5).wf = true ∧ ∃ t, step (sample 0#5) = .next t := by
  exact ⟨by decide, _, rfl⟩
theorem witness_StartClearsRegistersAndPc :
    (State.reset = State.reset ∨ ∃ f : Flags, State.reset = State.start f) ∧
    ∃ f : Flags, State.start (Flags.ofBits 0x0A#5) = State.start f := by
  exact ⟨.inl rfl, _, rfl⟩
theorem witness_CompleteListOfStops :
    State.reset.fetch = none ∧ stop (step (State.reset.withFetchWord 16 0x0100)) = some (.unassignedEncoding .uA) ∧
    stop (step ((State.start (Flags.ofBits 0x02#5)).withFetchWord 16 0xC123)) = some .mulUndefinedFlags ∧
    stop (step (State.reset.withFetchWord 16 0x2011)) = some .callRegisterCollision ∧
    stop (step (State.reset.withFetchWord 16 0x210E)) = some .callRegisterCollision ∧
    stop (step (State.reset.withFetchWord 16 0x2200)) = some .interruptOpcode ∧
    stop (step (State.reset.withFetchWord 16 0x2300)) = some .interruptOpcode := by
  decide
theorem witness_DecodeOfEncode :
    (Instr.inc 1 64).wellFormed = true ∧ (Instr.load 1 31 2).wellFormed = true ∧ (Instr.brr (-128)).wellFormed = true ∧
    (Instr.brr 127).wellFormed = true ∧ (Instr.swi 15).wellFormed = true := by
  decide
theorem witness_EncodeOfDecode :
    decode 0x3FBF#16 = .ok (.inc 15 64) := by
  rfl
theorem witness_DecoderFollowsTheTable :
    decode 0x3FBF#16 = .ok (.inc 15 64) ∧ ∃ r ∈ encodingTable, r.accepts 0x3FBF#16 = true := by
  exact ⟨rfl, encodingRow (.inc 0 0), by decide, by decide⟩
theorem witness_UnassignedWordsAreTheEightSets :
    decode 0x0100#16 = .error .uA ∧ decode 0x11FF#16 = .error .uB ∧ decode 0x1FFF#16 = .error .uC ∧
    decode 0x22FF#16 = .error .uD ∧ decode 0x23FF#16 = .error .uE ∧ decode 0x2FFF#16 = .error .uF ∧
    decode 0x3F6F#16 = .error .uG ∧ decode 0x3F7F#16 = .error .uH := by
  exact ⟨rfl, rfl, rfl, rfl, rfl, rfl, rfl, rfl⟩
theorem witness_DoublePrecisionAddAndSubtract :
    (sample 0x0F#5).flags.cb = false ∧ (1 : Reg) ≠ 0 ∧ (2 : Reg) ≠ 0 ∧ (1 : Reg) ≠ 2 ∧ (2 : Reg) ≠ 3 ∧ (2 : Reg) ≠ 5 := by
  decide
theorem witness_AssembledWordsAreCountedAndAssigned :
    (Stmt.branchTo .ge ['S']).words [] [(['S'], 0x0209)] 0x0204 = .ok [0xEB09#16, 0xFB02#16, 0x130B#16] ∧
    ∀ n, Stmt.branchTo .ge ['S'] ≠ .opcode n := by
  exact ⟨rfl, nofun⟩

end Sys2Proof.Tests
end

section
/-! PROOFS. The step on a platform with HARVARD and INTERRUPT_MODEL at the spec's values (R6, D13, D15, D20; log 20). -/

namespace Sys2Proof.Machine

/-- A platform that keeps nothing of its own loses nothing when only the machine's part of an outcome is kept. -/
theorem keepingOwn_machinePart (r : Host.Outcome (State × Unit) Fault Refusal) :
    keepingOwn () (machinePart r) = r := by
  cases r <;> rfl

/-- Without an INTERRUPT_MODEL no hardware signal is taken (D20). -/
theorem takeSignal_standard (signal : Option Nat) (s : State) : takeSignal Platform.standard signal s () = none := rfl

/-- Without an INTERRUPT_MODEL every instruction does on the platform what it does in the machine; only SWI and RTI have an
arm of their own there, and the machine's arm for them is its part of the platform's (D13). -/
theorem execOn_standard (i : Instr) (s : State) : execOn Platform.standard i s () = keepingOwn () (exec i s) := by
  unfold execOn
  split
  case h_1 n => exact (keepingOwn_machinePart (swiOn Platform.standard n s ())).symm
  case h_2 => exact (keepingOwn_machinePart (rtiOn Platform.standard s ())).symm
  case h_3 => rfl

/-- With separate memories the platform fetches the machine's word (D15), so its step goes through the machine's cases:
no word, a word of no instruction, an instruction. -/
theorem stepOn_standard (signal : Option Nat) (s : State) :
    stepOn Platform.standard signal s () = keepingOwn () (step s) := by
  have fetch_standard : Platform.standard.fetch s () = s.fetch := rfl
  simp only [stepOn, takeSignal_standard, fetch_standard, step]
  cases s.fetch with
  | none => rfl
  | some w =>
    dsimp only
    cases decode w with
    | error u => rfl
    | ok i => exact execOn_standard i s

/-- Settles O60: HARVARD is true by the value of the parameter, and the step is `stepOn_standard`. -/
theorem standardPlatformIsTheMachine : Obligations.StandardPlatformIsTheMachine :=
  ⟨rfl, fun s signal => stepOn_standard signal s⟩

end Sys2Proof.Machine
end

section
/-! PROOFS. The state's registers, PC and flags (10_state.md, R20 to R39): what every instruction does to the PC and to the
five flags, whatever its operands, and what the flags before it can reach. -/

namespace Sys2Proof.Machine

/-! ## Which flags a flag computation writes -/

/-- Each flag is its bit of the 5-bit value (R26). -/
theorem Flags.toBits_bits (f : Flags) :
    f.toBits.getLsbD 4 = f.cb ∧ f.toBits.getLsbD 3 = f.c ∧ f.toBits.getLsbD 2 = f.v ∧ f.toBits.getLsbD 1 = f.z ∧
      f.toBits.getLsbD 0 = f.s :=
  (Flags.mk.injEq ..).mp (Flags.ofBits_toBits f)

/-- FON on each flag: on where the immediate names it, kept elsewhere (R182, R186). -/
theorem flagsOn_eq (f : Flags) (v : BitVec 5) :
    flagsOn f v =
      { cb := f.cb || v.getLsbD 4, c := f.c || v.getLsbD 3, v := f.v || v.getLsbD 2, z := f.z || v.getLsbD 1,
        s := f.s || v.getLsbD 0 } := by
  obtain ⟨hcb, hc, hv, hz, hs⟩ := f.toBits_bits
  simp only [flagsOn, Flags.ofBits, BitVec.getLsbD_or, hcb, hc, hv, hz, hs]

/-- FOFF on each flag: off where the immediate names it, kept elsewhere (R183, R186). -/
theorem flagsOff_eq (f : Flags) (v : BitVec 5) :
    flagsOff f v =
      { cb := f.cb && !v.getLsbD 4, c := f.c && !v.getLsbD 3, v := f.v && !v.getLsbD 2, z := f.z && !v.getLsbD 1,
        s := f.s && !v.getLsbD 0 } := by
  obtain ⟨hcb, hc, hv, hz, hs⟩ := f.toBits_bits
  simp only [flagsOff, Flags.ofBits, BitVec.getLsbD_and, hcb, hc, hv, hz, hs]
  simp

theorem SameFlagsOutside.refl (w f : Flags) : SameFlagsOutside w f f := by
  simp [SameFlagsOutside]

/-- A row with all five flags marked says nothing. -/
theorem sameFlagsOutside_all (f g : Flags) : SameFlagsOutside ⟨true, true, true, true, true⟩ f g := by
  simp [SameFlagsOutside]

theorem sameFlagsOutside_withSignZero (f : Flags) (r : Word) :
    SameFlagsOutside ⟨false, false, false, true, true⟩ f (f.withSignZero r) := by
  simp [SameFlagsOutside]

theorem sameFlagsOutside_withSignZeroCarry (f : Flags) (r : Word) (c : Bool) :
    SameFlagsOutside ⟨false, true, false, true, true⟩ f (f.withSignZeroCarry r c) := by
  simp [SameFlagsOutside]

theorem sameFlagsOutside_withArith (f : Flags) (r : ArithResult) :
    SameFlagsOutside ⟨false, true, true, true, true⟩ f (f.withArith r) := by
  simp [SameFlagsOutside]

theorem sameFlagsOutside_flagsOn (f : Flags) (v : BitVec 5) : SameFlagsOutside (Flags.ofBits v) f (flagsOn f v) := by
  simp +contextual [SameFlagsOutside, flagsOn_eq, Flags.ofBits]

theorem sameFlagsOutside_flagsOff (f : Flags) (v : BitVec 5) : SameFlagsOutside (Flags.ofBits v) f (flagsOff f v) := by
  simp +contextual [SameFlagsOutside, flagsOff_eq, Flags.ofBits]

theorem sameFlagsOutside_flagsSet4 (f : Flags) (v : BitVec 5) :
    SameFlagsOutside ⟨false, true, true, true, true⟩ f (flagsSet4 f v) := by
  simp [SameFlagsOutside, flagsSet4]

/-! ## Which flags of the result depend on the flags before -/

theorem SameFlagsInside.refl (w f : Flags) : SameFlagsInside w f f := by
  simp [SameFlagsInside]

/-- A row with no flag marked says nothing. -/
theorem sameFlagsInside_none (f g : Flags) : SameFlagsInside ⟨false, false, false, false, false⟩ f g := by
  simp [SameFlagsInside]

theorem sameFlagsInside_withSignZero (f g : Flags) (r : Word) :
    SameFlagsInside ⟨false, false, false, true, true⟩ (f.withSignZero r) (g.withSignZero r) := by
  simp [SameFlagsInside]

theorem sameFlagsInside_withSignZeroCarry (f g : Flags) (r : Word) (c : Bool) :
    SameFlagsInside ⟨false, true, false, true, true⟩ (f.withSignZeroCarry r c) (g.withSignZeroCarry r c) := by
  simp [SameFlagsInside, Flags.withSignZeroCarry]

theorem sameFlagsInside_withArith (f g : Flags) (r : ArithResult) :
    SameFlagsInside ⟨false, true, true, true, true⟩ (f.withArith r) (g.withArith r) := by
  simp [SameFlagsInside]

theorem sameFlagsInside_flagsOn (f g : Flags) (v : BitVec 5) :
    SameFlagsInside (Flags.ofBits v) (flagsOn f v) (flagsOn g v) := by
  simp +contextual [SameFlagsInside, flagsOn_eq, Flags.ofBits]

theorem sameFlagsInside_flagsOff (f g : Flags) (v : BitVec 5) :
    SameFlagsInside (Flags.ofBits v) (flagsOff f v) (flagsOff g v) := by
  simp +contextual [SameFlagsInside, flagsOff_eq, Flags.ofBits]

theorem sameFlagsInside_flagsSet4 (f g : Flags) (v : BitVec 5) :
    SameFlagsInside ⟨false, true, true, true, true⟩ (flagsSet4 f v) (flagsSet4 g v) := by
  simp [SameFlagsInside, flagsSet4]

/-! ## The next states of MUL, CALL and RETURN -/

/-- In either mode MUL ends as an arithmetic instruction with some result, and perhaps another draw counter (R136, R137). -/
theorem exec_mul_next {d a b : Reg} {s t : State} (h : exec (.mul d a b) s = .next t) :
    ∃ (r : ArithResult) (n : Nat), t = { s.retireArith d r with draws := n } := by
  change execMul d a b s = .next t at h
  unfold execMul at h
  split at h <;> cases h
  case h_1 | h_2 => exact ⟨_, _, rfl⟩

/-- CALL and RETURN have a next state only where their operands do not collide, and it is the exchange (R260 to R262). -/
theorem callOrReturn_next {a b : Reg} {s t : State} (h : callOrReturn a b s = .next t) :
    callCollides a b = false ∧ t = s.exchange a b := by
  unfold callOrReturn at h
  split at h <;> cases h
  exact ⟨by simp_all, rfl⟩

/-! ## The PC -/

/-- The next address as a number (R25, D5). -/
theorem add_one_eq_ofNat_mod (p : Word) : p + 1#16 = BitVec.ofNat 16 ((p.toNat + 1) % 65536) := by
  apply BitVec.eq_of_toNat_eq
  simp

/-- An instruction that is no branch, CALL or RETURN ends by `advance` (R25). -/
theorem exec_pc_of_not_movesPc {i : Instr} {s t : State} (hm : instrMovesPc i = false) (h : exec i s = .next t) :
    t.pc = s.pc + 1#16 := by
  cases i
  case mul d a b =>
    obtain ⟨r, n, rfl⟩ := exec_mul_next h
    exact State.retire_pc s d r.value _
  case swi | rti => cases h
  case setlo | sethi | and | or | add | sub | xor | inc | dec | lsl | lsr | lsl8 | lsr8 | asl | asr | savef | load =>
    cases h
    exact State.retire_pc s _ _ _
  case rstrf | fon | foff | fset5 | fset4 | store =>
    cases h
    exact State.advance_pc _
  all_goals cases hm

/-- Settles O35, by the way each instruction ends. -/
theorem otherInstructionsAdvanceByOne : Obligations.OtherInstructionsAdvanceByOne := by
  intro i s t hm h
  rw [exec_pc_of_not_movesPc hm h, add_one_eq_ofNat_mod]

/-! ## The flag table -/

/-- Settles O41: each row of the flag table is that of the flag computation by which its instructions end (R32). -/
theorem flagTableIsRespected : Obligations.FlagTableIsRespected := by
  intro i s t h
  cases i
  case mul d a b =>
    obtain ⟨r, n, rfl⟩ := exec_mul_next h
    exact sameFlagsOutside_withArith s.flags r
  case call a b | ret a b =>
    obtain ⟨-, rfl⟩ := callOrReturn_next h
    rw [State.exchange_flags]
    exact .refl _ _
  case swi | rti => cases h
  case and | or | xor | lsl8 | lsr8 | load =>
    cases h
    exact sameFlagsOutside_withSignZero s.flags _
  case lsl | lsr | asr =>
    cases h
    exact sameFlagsOutside_withSignZeroCarry s.flags _ _
  case add | sub | inc | dec | asl =>
    cases h
    exact sameFlagsOutside_withArith s.flags _
  case rstrf | fset5 => exact sameFlagsOutside_all _ _
  case fon v =>
    cases h
    exact sameFlagsOutside_flagsOn s.flags v
  case foff v =>
    cases h
    exact sameFlagsOutside_flagsOff s.flags v
  case fset4 v =>
    cases h
    exact sameFlagsOutside_flagsSet4 s.flags v
  all_goals
    cases h
    exact .refl _ _

/-- The column of carry-block in the flag table is empty but for four instructions (R31, R32). -/
theorem flagsWritten_cb {i : Instr} (hrstrf : ∀ d, i ≠ .rstrf d) (hfon : ∀ v, i ≠ .fon v) (hfoff : ∀ v, i ≠ .foff v)
    (hfset5 : ∀ v, i ≠ .fset5 v) : (flagsWritten i).cb = false := by
  cases i
  case rstrf d => exact absurd rfl (hrstrf d)
  case fon v => exact absurd rfl (hfon v)
  case foff v => exact absurd rfl (hfoff v)
  case fset5 v => exact absurd rfl (hfset5 v)
  all_goals rfl

/-- Settles O40: the flag table, and its column of carry-block. -/
theorem onlyFourInstructionsWriteCarryBlock : Obligations.OnlyFourInstructionsWriteCarryBlock := by
  intro i s t h hrstrf hfon hfoff hfset5
  obtain ⟨-, -, -, -, keepsCarryBlock⟩ := flagTableIsRespected i s t h
  exact keepsCarryBlock (flagsWritten_cb hrstrf hfon hfoff hfset5)

/-! ## The sign and zero flags -/

/-- The flags s and z are those of the value (R27, R28). -/
def Flags.Describe (f : Flags) (v : Word) : Prop := f.s = v.getLsbD 15 ∧ f.z = (v == 0#16)

/-- A destination other than R0 holds the value afterwards (R21), so flags that describe the value describe it. -/
theorem Flags.Describe.readReg_retire {s : State} {d : Reg} {v : Word} {f : Flags} (h : f.Describe v) (hd : d ≠ 0) :
    f.Describe ((s.retire d v f).readReg d) := by
  rw [State.readReg_retire, if_pos ⟨rfl, hd⟩]
  exact h

/-- Settles O42: each of the fifteen instructions ends by `retire`, and its flag computation (`withSignZero`,
`withSignZeroCarry` or `withArith`) takes s and z from the value that `retire` writes. -/
theorem signAndZeroDescribeTheResult : Obligations.SignAndZeroDescribeTheResult := by
  intro i s t d a b n o hd hi h
  simp only [List.mem_cons, List.not_mem_nil, or_false] at hi
  change t.flags.Describe (t.readReg d)
  by_cases hmul : i = .mul d a b
  · subst hmul
    obtain ⟨r, k, rfl⟩ := exec_mul_next h
    exact Flags.Describe.readReg_retire ⟨rfl, rfl⟩ hd
  · simp only [hmul, false_or] at hi
    obtain rfl | rfl | rfl | rfl | rfl | rfl | rfl | rfl | rfl | rfl | rfl | rfl | rfl | rfl := hi
    all_goals
      cases h
      exact Flags.Describe.readReg_retire ⟨rfl, rfl⟩ hd

/-! ## Results independent of the flags -/

/-- A register write does not look at the flags. -/
theorem State.writeReg_withFlags (s : State) (f : Flags) (d : Reg) (v : Word) :
    (s.withFlags f).writeReg d v = (s.writeReg d v).withFlags f := by
  unfold State.writeReg
  split <;> rfl

/-- The end of a register instruction does not look at the flags before it. -/
theorem State.retire_withFlags (s : State) (f g g' : Flags) (d : Reg) (v : Word) :
    (s.withFlags f).retire d v g' = (s.retire d v g).withFlags g' := by
  unfold State.retire
  rw [State.writeReg_withFlags]
  rfl

/-- The exchange of CALL and RETURN does not look at the flags (R260). -/
theorem State.exchange_withFlags (s : State) (f : Flags) (a b : Reg) :
    (s.withFlags f).exchange a b = (s.exchange a b).withFlags f := by
  have jump_withFlags (p : Word) : (s.withFlags f).jump p = (s.jump p).withFlags f := rfl
  simp only [State.exchange, jump_withFlags, State.writeReg_withFlags]
  rfl

theorem callOrReturn_withFlags {a b : Reg} {s t : State} (f : Flags) (h : callOrReturn a b s = .next t) :
    callOrReturn a b (s.withFlags f) = .next (t.withFlags f) := by
  obtain ⟨hc, rfl⟩ := callOrReturn_next h
  simp [callOrReturn, hc, State.exchange_withFlags]

/-- From other flags, an instruction that reads none answers the same state but for flags that it does not write (R31). -/
theorem exec_withFlags {i : Instr} {s t : State} (f : Flags) (hr : readsFlags i = false) (h : exec i s = .next t) :
    ∃ g, exec i (s.withFlags f) = .next (t.withFlags g) ∧ SameFlagsInside (flagsWritten i) g t.flags := by
  cases i
  case setlo | sethi =>
    cases h
    exact ⟨f, congrArg Host.Outcome.next (s.retire_withFlags ..), sameFlagsInside_none _ _⟩
  case and | or | xor | lsl8 | lsr8 | load =>
    cases h
    exact ⟨_, congrArg Host.Outcome.next (s.retire_withFlags ..), sameFlagsInside_withSignZero f s.flags _⟩
  case asr =>
    cases h
    exact ⟨_, congrArg Host.Outcome.next (s.retire_withFlags ..), sameFlagsInside_withSignZeroCarry f s.flags _ _⟩
  case inc | dec =>
    cases h
    exact ⟨_, congrArg Host.Outcome.next (s.retire_withFlags ..), sameFlagsInside_withArith f s.flags _⟩
  case rstrf | fset5 =>
    cases h
    exact ⟨_, rfl, .refl _ _⟩
  case fon v =>
    cases h
    exact ⟨_, rfl, sameFlagsInside_flagsOn f s.flags v⟩
  case foff v =>
    cases h
    exact ⟨_, rfl, sameFlagsInside_flagsOff f s.flags v⟩
  case fset4 v =>
    cases h
    exact ⟨_, rfl, sameFlagsInside_flagsSet4 f s.flags v⟩
  case store | br | brr =>
    cases h
    exact ⟨f, rfl, sameFlagsInside_none _ _⟩
  case call | ret => exact ⟨f, callOrReturn_withFlags f h, sameFlagsInside_none _ _⟩
  case swi | rti => cases h
  all_goals cases hr

/-- Settles O43: the state with other flags differs in its flags alone. -/
theorem flagsDoNotReachOtherResults : Obligations.FlagsDoNotReachOtherResults := by
  intro i s t f hr h
  obtain ⟨g, hu, hg⟩ := exec_withFlags f hr h
  exact ⟨t.withFlags g, hu, fun _ => rfl, ⟨fun _ => rfl, rfl⟩, rfl, hg⟩

/-! ## R0 and the start -/

/-- Settles O44: the two rules of R0. -/
theorem registerZeroIsHardWired : Obligations.RegisterZeroIsHardWired :=
  fun s v => ⟨s.readReg_zero, s.writeReg_zero v⟩

/-- Every register is 0 at the start (R39, R400, D2). -/
theorem State.readReg_start (f : Flags) (r : Reg) : (State.start f).readReg r = 0#16 := by
  simp [State.readReg]

/-- Settles O50: the state after reset is a start state too. -/
theorem startClearsRegistersAndPc : Obligations.StartClearsRegistersAndPc := by
  rintro s (rfl | ⟨f, rfl⟩)
  · exact ⟨State.readReg_start resetFlags, State.start_pc resetFlags⟩
  · exact ⟨State.readReg_start f, State.start_pc f⟩

end Sys2Proof.Machine
end

section
/-! PROOFS. Memory (20_memory.md, R50 to R65): what a write to data memory changes, what each instruction leaves of the two
memories, what a LOAD reads after a STORE, and the fetch. -/

namespace Sys2Proof.Machine

/-! ## One write to data memory -/

/-- Settles O26: the reading after a write, and the fields that a write leaves. -/
theorem memoryWriteChangesOneCell : Obligations.MemoryWriteChangesOneCell :=
  fun s a v k =>
    ⟨s.readData_writeData a k v, s.writeData_regs a v, s.writeData_pc a v, s.writeData_flags a v, s.writeData_imem a v⟩

/-! ## The fetch comes first -/

/-- Nothing is decoded where no word is fetched (R64, D23). -/
theorem step_of_fetch_none {s : State} (hf : s.fetch = none) : step s = .fault .fetchOutsideProgram := by
  simp only [step, hf]

/-- Nothing is executed where the fetched word is unassigned (R95, R371, D12). -/
theorem step_of_decode_error {s : State} {w : Word} {u : UnassignedSet} (hf : s.fetch = some w)
    (hw : decode w = .error u) : step s = .fault (.unassignedEncoding u) := by
  simp only [step, hf, hw]

/-- Settles O47: what the step fetches is the word of instruction memory at the PC (`State.fetch_eq`). -/
theorem fetchAndDecodeComeFirst : Obligations.FetchAndDecodeComeFirst :=
  fun _ => ⟨step_of_fetch_none, fun _ _ hf hw => step_of_decode_error hf hw⟩

/-! ## What an instruction leaves of the memories -/

/-- The draw of a high-word MUL is no write to instruction memory (R136). -/
theorem State.mulHigh_imem (s : State) (d : Reg) (x y : Word) : (s.mulHigh d x y).imem = s.imem := by
  simp [State.mulHigh, State.retireArith]

/-- None of the ways an instruction can end writes instruction memory (R37, R61, D15). -/
theorem Effect.imem {s t : State} (h : Effect s t) : t.imem = s.imem := by
  cases h with
  | retire d v f => exact s.retire_imem d v f
  | drawn d x y => exact s.mulHigh_imem d x y
  | flags f => exact (s.withFlags f).advance_imem
  | store a v => exact (s.writeData a v).advance_imem
  | branch taken p => exact s.branch_imem taken p
  | exchange a b => exact s.exchange_imem a b

/-- An instruction other than STORE ends in one of the ways that keep data memory (R52). -/
theorem exec_dmem_of_not_store {i : Instr} {s t : State} (hi : ∀ d o b, i ≠ .store d o b) (h : exec i s = .next t) :
    t.dmem = s.dmem := by
  cases i
  case store d o b => exact absurd rfl (hi d o b)
  case mul d a b =>
    obtain ⟨r, n, rfl⟩ := exec_mul_next h
    exact s.retire_dmem d r.value (s.flags.withArith r)
  case call a b | ret a b =>
    obtain ⟨-, rfl⟩ := callOrReturn_next h
    exact s.exchange_dmem a b
  case swi | rti => cases h
  case setlo | sethi | and | or | add | sub | xor | inc | dec | lsl | lsr | lsl8 | lsr8 | asl | asr | savef | load =>
    cases h
    exact s.retire_dmem _ _ _
  case rstrf | fon | foff | fset5 | fset4 =>
    cases h
    exact State.advance_dmem _
  all_goals
    cases h
    exact s.branch_dmem _ _

/-- Settles O27: instruction memory by the ways an instruction can end, data memory by instruction. -/
theorem onlyStoreChangesMemory : Obligations.OnlyStoreChangesMemory :=
  fun i s t h => ⟨(exec_effect i s t h).imem, fun hi => State.readData_congr (exec_dmem_of_not_store hi h)⟩

/-! ## A LOAD after a STORE -/

/-- The effective address is base plus offset as words, so it wraps (R65, D6). -/
theorem State.effectiveAddress_eq (s : State) (o : Nat) (b : Reg) :
    s.effectiveAddress o b = s.readReg b + BitVec.ofNat 16 o := by
  rw [State.effectiveAddress, BitVec.ofNat_add, BitVec.ofNat_toNat, BitVec.setWidth_eq]

/-- STORE answers the state with the one cell written and the PC advanced (R202). -/
theorem exec_store (d : Reg) (o : Nat) (b : Reg) (s : State) :
    exec (.store d o b) s = .next (s.writeData (s.readReg b + BitVec.ofNat 16 o) (s.readReg d)).advance := by
  rw [← State.effectiveAddress_eq]
  rfl

/-- LOAD answers a state whose destination, unless it is R0, holds the cell at the effective address (R201, R21). -/
theorem exec_load_readReg (d : Reg) (o : Nat) (b : Reg) (s : State) :
    ∃ t, exec (.load d o b) s = .next t ∧
      t.readReg d = if d = 0 then 0#16 else s.readData (s.readReg b + BitVec.ofNat 16 o) := by
  refine ⟨_, rfl, ?_⟩
  rw [← State.effectiveAddress_eq, State.readReg_retire]
  by_cases hd : d = 0 <;> simp [hd]

/-- After a STORE its cell reads as the register stored and every other cell as before (R63). -/
theorem State.readData_advance_writeData (s : State) (a k v : Word) :
    (s.writeData a v).advance.readData k = if k = a then v else s.readData k :=
  s.readData_writeData a k v

/-- Settles O25: the LOAD reads the memory that the STORE leaves, at an address that the STORE does not move. -/
theorem loadAfterStore : Obligations.LoadAfterStore := by
  intro s d b e k o p
  obtain ⟨u, hload, hread⟩ :=
    exec_load_readReg e p k (s.writeData (s.readReg b + BitVec.ofNat 16 o) (s.readReg d)).advance
  refine ⟨_, u, exec_store d o b s, hload, ?_⟩
  rw [hread, State.readReg_advance, State.readReg_writeData, State.readData_advance_writeData]

end Sys2Proof.Machine
end

section
/-! PROOFS. The encoding (30_encoding.md, R80 to R97): the formats of the encoder and the fields of the decoder undo
each other, the words the decoder turns away, and the table of masks and matches. -/

namespace Sys2Proof

/-! ## Fields of a word -/

theorem toNat_field (lo len : Nat) (w : Word) : (field lo len w).toNat = w.toNat / 2 ^ lo % 2 ^ len := by
  rw [field, BitVec.extractLsb'_toNat, Nat.shiftRight_eq_div_pow]

/-- Two adjoining fields are one longer field. -/
theorem field_append (lo m n : Nat) (w : Word) : field (lo + n) m w ++ field lo n w = field lo (m + n) w :=
  BitVec.extractLsb'_append_extractLsb'_eq_extractLsb' rfl

/-- A slice of a field is a field. -/
theorem extractLsb'_field {lo len i k : Nat} (h : i + k ≤ len) (w : Word) :
    (field lo len w).extractLsb' i k = field (lo + i) k w := by
  apply BitVec.eq_of_getLsbD_eq
  intro j hj
  have hlen : i + j < len := by omega
  simp [field, BitVec.getLsbD_extractLsb', hlen, Nat.add_assoc]

theorem word4_fields (w : Word) : word4 (field 12 4 w) (field 8 4 w) (field 4 4 w) (field 0 4 w) = w := by
  apply BitVec.eq_of_toNat_eq
  simp only [word4, toNat_append_add, toNat_field]
  omega

@[simp] theorem regBits_regField (lo : Nat) (w : Word) : regBits (regField lo w) = field lo 4 w := by
  simp [regBits, regField]

/-- Four digits are a word's as soon as each is the word's field at its place. -/
theorem word4_eq_of_fields {a b c d : BitVec 4} {w : Word} (ha : field 12 4 w = a) (hb : field 8 4 w = b)
    (hc : field 4 4 w = c) (hd : field 0 4 w = d) : word4 a b c d = w := by
  rw [← ha, ← hb, ← hc, ← hd, word4_fields]

/-! ## Ranges of the decoded operands (R93) -/

theorem amountInRange_field (w : Word) : amountInRange ((field 0 6 w).toNat + 1) = true := by
  have := (field 0 6 w).isLt
  simp only [amountInRange, Bool.and_eq_true, decide_eq_true_eq]
  omega

theorem offsetInRange_offsetField (w : Word) : offsetInRange (offsetField w) = true := by
  have := (field 12 1 w ++ field 4 4 w).isLt
  exact decide_eq_true (by unfold offsetField; omega)

theorem distanceInRange_toInt (x : BitVec 8) : distanceInRange x.toInt = true := by
  have hlow := BitVec.le_toInt x
  have hhigh := BitVec.toInt_lt (x := x)
  simp only [distanceInRange, Bool.and_eq_true, decide_eq_true_eq]
  omega

theorem interruptInRange_toNat (x : BitVec 4) : interruptInRange x.toNat = true := by
  have := x.isLt
  simp only [interruptInRange, decide_eq_true_eq]
  omega

/-! ## The operands in range that a field holds (R93) -/

/-- The amount less one fits six bits (R84). -/
theorem toNat_ofNat_amount {n : Nat} (h : amountInRange n = true) : (BitVec.ofNat 6 (n - 1)).toNat + 1 = n := by
  simp only [amountInRange, Bool.and_eq_true, decide_eq_true_eq] at h
  rw [BitVec.toNat_ofNat]
  omega

theorem toNat_ofNat_offset {o : Nat} (h : offsetInRange o = true) : (BitVec.ofNat 5 o).toNat = o := by
  simp only [offsetInRange, decide_eq_true_eq] at h
  rw [BitVec.toNat_ofNat]
  omega

theorem toInt_ofInt_distance {o : Int} (h : distanceInRange o = true) : (BitVec.ofInt 8 o).toInt = o := by
  simp only [distanceInRange, Bool.and_eq_true, decide_eq_true_eq] at h
  rw [BitVec.toInt_ofInt, Int.bmod_eq_of_le] <;> omega

theorem toNat_ofNat_interrupt {i : Nat} (h : interruptInRange i = true) : (BitVec.ofNat 4 i).toNat = i := by
  simp only [interruptInRange, decide_eq_true_eq] at h
  rw [BitVec.toNat_ofNat]
  omega

/-! ## What the decoder reads from each format (R82 to R92) -/

/-- The two bits above the high bits of an amount (R84). -/
theorem bits_of_amount (x y : BitVec 1) (e : BitVec 2) :
    (x ++ y ++ e : BitVec 4).extractLsb' 3 1 = x ∧ (x ++ y ++ e : BitVec 4).extractLsb' 2 1 = y := by
  decide +revert

theorem decode_encodeIncDec (isDec : BitVec 1) (d : Reg) {n : Nat} (h : amountInRange n = true) :
    decode (encodeIncDec isDec d n) = if isDec = 0 then .ok (.inc d n) else .ok (.dec d n) := by
  have hn := toNat_ofNat_amount h
  rw [encodeIncDec]
  generalize BitVec.ofNat 6 (n - 1) = e at hn
  obtain ⟨hmark, hdec⟩ := bits_of_amount 1#1 isDec (e.extractLsb' 4 2)
  simp [decode, decodeGroup3, field_12_4_word4, field_7_1_word4, field_6_1_word4, field_0_6_word4, regField_8_word4,
    join_amount, hn, hmark, hdec]

theorem field_9_3_encodeFlagOp (op : BitVec 3) (v : BitVec 5) : field 9 3 (encodeFlagOp op v) = op := by
  rw [encodeFlagOp, field_9_3_word4, BitVec.extractLsb'_append_eq_left]

theorem flagImmediate_encodeFlagOp (op : BitVec 3) (v : BitVec 5) : flagImmediate (encodeFlagOp op v) = v := by
  rw [flagImmediate, encodeFlagOp, field_8_1_word4, field_0_4_word4, BitVec.extractLsb'_append_eq_right, join_flags]

theorem decode_encodeFlagOp (op : BitVec 3) (v : BitVec 5) :
    decode (encodeFlagOp op v) = decodeFlagOp (encodeFlagOp op v) := by
  simp [encodeFlagOp, decode, decodeGroup3, field_12_4_word4, field_7_1_word4, field_4_3_word4]

theorem decode_encodeMem (isStore : BitVec 1) (d : Reg) {o : Nat} (b : Reg) (h : offsetInRange o = true) :
    decode (encodeMem isStore d o b) = if isStore = 0 then .ok (.load d o b) else .ok (.store d o b) := by
  have hoff : offsetField (encodeMem isStore d o b) = o := by
    rw [offsetField, encodeMem, field_12_1_word4, field_4_4_word4, BitVec.extractLsb'_append_eq_right, join_flags,
      toNat_ofNat_offset h]
  rw [decode, hoff, encodeMem, field_12_4_word4, regField_8_word4, regField_0_word4]
  generalize (BitVec.ofNat 5 o).extractLsb' 4 1 = e
  obtain rfl | rfl := isStore.eq_zero_or_eq_one <;> obtain rfl | rfl := e.eq_zero_or_eq_one <;> rfl

theorem decode_encodeBranchRegister (cond : BitVec 4) (b : Reg) :
    decode (encodeBranchRegister cond b) = decodeRegisterMode cond.toNat b := by
  simp [encodeBranchRegister, decode, decodeGroup1, field_12_4_word4, field_8_4_word4, field_4_4_word4,
    regField_0_word4]

theorem decode_encodeBranchRelative (cond : BitVec 4) {o : Int} (h : distanceInRange o = true) :
    decode (encodeBranchRelative cond o) = decodeRelative cond.toNat o := by
  simp [encodeBranchRelative, decode, field_12_4_word4, field_8_4_word4, field_0_8_word4, join_byte,
    toInt_ofInt_distance h]

/-- Settles O52, by format. -/
theorem decodeOfEncode : Obligations.DecodeOfEncode := by
  intro i h
  cases i
  case setlo | sethi =>
    simp [encode, encodeSet, decode, field_12_4_word4, regField_8_word4, field_0_8_word4, join_byte]
  case and | or | add | sub | mul | xor =>
    simp [encode, encodeAlu3, decode, field_12_4_word4, regField_8_word4, regField_4_word4, regField_0_word4]
  case inc d n | dec d n => exact decode_encodeIncDec _ d h
  case lsl | lsr | lsl8 | lsr8 | asl | asr | savef | rstrf =>
    simp [encode, encodeShift, decode, decodeGroup3, field_12_4_word4, regField_8_word4, regField_0_word4,
      field_7_1_word4, field_4_3_word4, field_0_3_word4, field_3_1_word4]
  case fon | foff | fset5 | fset4 =>
    simp [encode, decode_encodeFlagOp, decodeFlagOp, field_9_3_encodeFlagOp, flagImmediate_encodeFlagOp]
  case load d o b | store d o b => exact decode_encodeMem _ d b h
  case br b | bl b | bge b | ble b | bg b | bule b | bug b | bz b | bnz b | bc b | bnc b | bs b | bns b | bv b |
      bnv b =>
    exact decode_encodeBranchRegister _ b
  case brr o | blr o | bger o | bler o | bgr o | buler o | bugr o | bzr o | bnzr o | bcr o | bncr o | bsr o | bnsr o |
      bvr o | bnvr o =>
    exact decode_encodeBranchRelative _ h
  case call | ret =>
    simp [encode, decode, decodeGroup2, field_12_4_word4, field_8_4_word4, regField_4_word4, regField_0_word4]
  case swi n =>
    simp [encode, decode, decodeGroup2, field_12_4_word4, field_8_4_word4, field_4_4_word4, field_0_4_word4,
      toNat_ofNat_interrupt h]
  case rti => rfl

/-! ## What the encoder writes for the operands of a word (R82 to R92) -/

theorem encodeSet_of_opcode {op : BitVec 4} {w : Word} (hop : field 12 4 w = op) :
    encodeSet op (regField 8 w) (field 0 8 w) = w := by
  apply word4_eq_of_fields hop (regBits_regField 8 w).symm
  · rw [extractLsb'_field (by decide)]
  · rw [extractLsb'_field (by decide)]

theorem encodeAlu3_of_opcode {op : BitVec 4} {w : Word} (hop : field 12 4 w = op) :
    encodeAlu3 op (regField 8 w) (regField 4 w) (regField 0 w) = w :=
  word4_eq_of_fields hop (regBits_regField 8 w).symm (regBits_regField 4 w).symm (regBits_regField 0 w).symm

theorem encodeIncDec_of_fields {isDec : BitVec 1} {w : Word} (hop : field 12 4 w = 3#4) (hmark : field 7 1 w = 1)
    (hdec : field 6 1 w = isDec) : encodeIncDec isDec (regField 8 w) ((field 0 6 w).toNat + 1) = w := by
  have heps : BitVec.ofNat 6 ((field 0 6 w).toNat + 1 - 1) = field 0 6 w := by simp
  dsimp only [encodeIncDec]
  rw [heps, extractLsb'_field (by decide), extractLsb'_field (by decide), ← hdec]
  apply word4_eq_of_fields hop (regBits_regField 8 w).symm _ rfl
  calc field 4 4 w = field 7 1 w ++ field 6 1 w ++ field 4 2 w := by
        rw [field_append 6 1 1 w, field_append 4 2 2 w]
    _ = 1#1 ++ field 6 1 w ++ field 4 2 w := by rw [hmark]; rfl

theorem encodeShift_of_fields {op low : BitVec 4} {w : Word} (hop : field 12 4 w = 3#4) (hshift : field 4 4 w = op)
    (hlow : field 0 4 w = low) : encodeShift op (regField 8 w) low = w :=
  word4_eq_of_fields hop (regBits_regField 8 w).symm hshift hlow

theorem encodeFlagOp_of_fields {op : BitVec 3} {w : Word} (hop : field 12 4 w = 3#4) (hsix : field 4 4 w = 6#4)
    (hflag : field 9 3 w = op) : encodeFlagOp op (flagImmediate w) = w := by
  unfold encodeFlagOp flagImmediate
  rw [BitVec.extractLsb'_append_eq_left, BitVec.extractLsb'_append_eq_right, ← hflag]
  exact word4_eq_of_fields hop (field_append 8 3 1 w).symm hsix rfl

theorem encodeMem_of_fields {isStore : BitVec 1} {w : Word} (hop : field 13 3 w = 0b01#2 ++ isStore) :
    encodeMem isStore (regField 8 w) (offsetField w) (regField 0 w) = w := by
  have hoff : BitVec.ofNat 5 (offsetField w) = field 12 1 w ++ field 4 4 w := by
    rw [offsetField, BitVec.ofNat_toNat, BitVec.setWidth_eq]
  dsimp only [encodeMem]
  rw [hoff, BitVec.extractLsb'_append_eq_left, BitVec.extractLsb'_append_eq_right, ← hop]
  exact word4_eq_of_fields (field_append 12 3 1 w).symm (regBits_regField 8 w).symm rfl (regBits_regField 0 w).symm

theorem encodeBranchRegister_of_fields {cond : BitVec 4} {w : Word} (hop : field 12 4 w = 1#4)
    (hcond : field 8 4 w = cond) (hzero : field 4 4 w = 0) : encodeBranchRegister cond (regField 0 w) = w :=
  word4_eq_of_fields hop hcond hzero (regBits_regField 0 w).symm

theorem encodeBranchRelative_of_fields {cond : BitVec 4} {w : Word} (hop : field 12 4 w = 0#4)
    (hcond : field 8 4 w = cond) :
    encodeBranchRelative cond (field 0 8 w).toInt = w := by
  dsimp only [encodeBranchRelative]
  rw [BitVec.ofInt_toInt, extractLsb'_field (by decide), extractLsb'_field (by decide)]
  exact word4_eq_of_fields hop hcond rfl rfl

/-! ## The conditions and their codes (R210) -/

/-- The code of a condition in w[11:8] (R89, R90, R210). -/
def Cond.code : Cond → BitVec 4
  | .always => 0x0#4
  | .l => 0x2#4
  | .ge => 0x3#4
  | .le => 0x4#4
  | .g => 0x5#4
  | .ule => 0x6#4
  | .ug => 0x7#4
  | .z => 0x8#4
  | .nz => 0x9#4
  | .c => 0xA#4
  | .nc => 0xB#4
  | .s => 0xC#4
  | .ns => 0xD#4
  | .v => 0xE#4
  | .nv => 0xF#4

/-- Every code but 0001 is that of a condition. -/
theorem Cond.exists_code {n : BitVec 4} (hn : n ≠ 1) : ∃ cond : Cond, cond.code = n := by
  have hlist : ∀ n : BitVec 4, n ≠ 1 →
      ∃ cond ∈ [Cond.always, .l, .ge, .le, .g, .ule, .ug, .z, .nz, .c, .nc, .s, .ns, .v, .nv], cond.code = n := by
    decide
  obtain ⟨cond, -, hcode⟩ := hlist n hn
  exact ⟨cond, hcode⟩

theorem decodeRelative_code (cond : Cond) (o : Int) :
    decodeRelative cond.code.toNat o = .ok (cond.relativeBranch o) := by
  cases cond <;> rfl

theorem decodeRegisterMode_code (cond : Cond) (b : Reg) :
    decodeRegisterMode cond.code.toNat b = .ok (cond.registerBranch b) := by
  cases cond <;> rfl

theorem encode_relativeBranch (cond : Cond) (o : Int) :
    encode (cond.relativeBranch o) = encodeBranchRelative cond.code o := by
  cases cond <;> rfl

theorem encode_registerBranch (cond : Cond) (b : Reg) :
    encode (cond.registerBranch b) = encodeBranchRegister cond.code b := by
  cases cond <;> rfl

theorem wellFormed_relativeBranch (cond : Cond) (o : Int) : (cond.relativeBranch o).wellFormed = distanceInRange o := by
  cases cond <;> rfl

theorem wellFormed_registerBranch (cond : Cond) (b : Reg) : (cond.registerBranch b).wellFormed = true := by
  cases cond <;> rfl

/-- A relative branch is decoded only from the code of its condition. -/
theorem decodeRelative_ok {n : BitVec 4} {o : Int} {i : Instr} (h : decodeRelative n.toNat o = .ok i) :
    ∃ cond : Cond, n = cond.code ∧ i = cond.relativeBranch o := by
  by_cases hn : n = 1
  · subst hn
    cases h
  · obtain ⟨cond, rfl⟩ := Cond.exists_code hn
    rw [decodeRelative_code] at h
    cases h
    exact ⟨cond, rfl, rfl⟩

/-- A register-mode branch is decoded only from the code of its condition. -/
theorem decodeRegisterMode_ok {n : BitVec 4} {b : Reg} {i : Instr} (h : decodeRegisterMode n.toNat b = .ok i) :
    ∃ cond : Cond, n = cond.code ∧ i = cond.registerBranch b := by
  by_cases hn : n = 1
  · subst hn
    cases h
  · obtain ⟨cond, rfl⟩ := Cond.exists_code hn
    rw [decodeRegisterMode_code] at h
    cases h
    exact ⟨cond, rfl, rfl⟩

/-! ## The word of a decoded instruction, by group -/

/-- The word is that of the instruction, whose operands are in range (R93, R94). -/
def Instr.IsWord (i : Instr) (w : Word) : Prop := i.wellFormed = true ∧ encode i = w

theorem isWord_of_decodeRelative {w : Word} {i : Instr} (hop : field 12 4 w = 0#4)
    (h : decodeRelative (field 8 4 w).toNat (field 0 8 w).toInt = .ok i) : i.IsWord w := by
  obtain ⟨cond, hcond, rfl⟩ := decodeRelative_ok h
  constructor
  · rw [wellFormed_relativeBranch, distanceInRange_toInt]
  · rw [encode_relativeBranch, encodeBranchRelative_of_fields hop hcond]

theorem isWord_of_decodeGroup1 {w : Word} {i : Instr} (hop : field 12 4 w = 1#4) (h : decodeGroup1 w = .ok i) :
    i.IsWord w := by
  unfold decodeGroup1 at h
  split at h
  next => cases h
  next hset =>
    obtain ⟨cond, hcond, rfl⟩ := decodeRegisterMode_ok h
    have hzero : field 4 4 w = 0 := by
      by_contra hne
      refine hset ⟨?_, hne⟩
      rw [hcond]
      cases cond <;> decide
    refine ⟨wellFormed_registerBranch cond _, ?_⟩
    rw [encode_registerBranch, encodeBranchRegister_of_fields hop hcond hzero]

theorem isWord_of_decodeGroup2 {w : Word} {i : Instr} (hop : field 12 4 w = 2#4) (h : decodeGroup2 w = .ok i) :
    i.IsWord w := by
  unfold decodeGroup2 at h
  split at h
  case h_1 hcode | h_2 hcode =>
    cases h
    exact ⟨rfl, word4_eq_of_fields hop (BitVec.eq_of_toNat_eq hcode) (regBits_regField 4 w).symm
      (regBits_regField 0 w).symm⟩
  case h_3 hcode =>
    split at h <;> cases h
    next hzero =>
      have hnumber : field 0 4 w = BitVec.ofNat 4 (field 0 4 w).toNat := by simp
      exact ⟨interruptInRange_toNat _, word4_eq_of_fields hop (BitVec.eq_of_toNat_eq hcode) hzero hnumber⟩
  case h_4 hcode =>
    split at h <;> cases h
    next hzero =>
      have hmid : field 4 4 w = 0 := by rw [← extractLsb'_field (lo := 0) (len := 8) (i := 4) (by decide), hzero]; rfl
      have hlow : field 0 4 w = 0 := by rw [← extractLsb'_field (lo := 0) (len := 8) (i := 0) (by decide), hzero]; rfl
      exact ⟨rfl, word4_eq_of_fields hop (BitVec.eq_of_toNat_eq hcode) hmid hlow⟩
  case h_5 => cases h

theorem isWord_of_decodeFlagOp {w : Word} {i : Instr} (hop : field 12 4 w = 3#4) (hsix : field 4 4 w = 6#4)
    (h : decodeFlagOp w = .ok i) : i.IsWord w := by
  unfold decodeFlagOp at h
  split at h <;> cases h
  case h_1 hflag | h_2 hflag | h_3 hflag | h_4 hflag =>
    exact ⟨rfl, encodeFlagOp_of_fields hop hsix (BitVec.eq_of_toNat_eq hflag)⟩

/-- With w[7] clear, w[6:4] is the whole digit w[7:4] (R85 to R87). -/
theorem toNat_field_4_4_of_unmarked {w : Word} (hmark : field 7 1 w ≠ 1) :
    (field 4 4 w).toNat = (field 4 3 w).toNat := by
  have hbit : (field 7 1 w).toNat = 0 := congrArg BitVec.toNat ((BitVec.eq_zero_or_eq_one _).resolve_right hmark)
  simp only [toNat_field] at hbit ⊢
  omega

theorem isWord_of_decodeGroup3 {w : Word} {i : Instr} (hop : field 12 4 w = 3#4) (h : decodeGroup3 w = .ok i) :
    i.IsWord w := by
  unfold decodeGroup3 at h
  extract_lets d b at h
  split at h
  next hmark =>
    split at h <;> cases h
    next hdec => exact ⟨amountInRange_field w, encodeIncDec_of_fields hop hmark hdec⟩
    next hdec =>
      exact ⟨amountInRange_field w, encodeIncDec_of_fields hop hmark ((BitVec.eq_zero_or_eq_one _).resolve_left hdec)⟩
  next hmark =>
    have hdigit := toNat_field_4_4_of_unmarked hmark
    split at h
    case h_1 hshift | h_2 hshift | h_3 hshift | h_4 hshift | h_5 hshift | h_6 hshift =>
      cases h
      exact ⟨rfl, encodeShift_of_fields hop (BitVec.eq_of_toNat_eq (hdigit.trans hshift)) (regBits_regField 0 w).symm⟩
    case h_7 hshift => exact isWord_of_decodeFlagOp hop (BitVec.eq_of_toNat_eq (hdigit.trans hshift)) h
    case h_8 =>
      have hseven : (field 4 3 w).toNat = 7 := by grind [(field 4 3 w).isLt]
      have hshift : field 4 4 w = 7#4 := BitVec.eq_of_toNat_eq (hdigit.trans hseven)
      split at h
      case isFalse => cases h
      case isTrue hlow =>
        have hfield : field 0 4 w = field 3 1 w ++ field 0 3 w := (field_append 0 1 3 w).symm
        rw [hlow] at hfield
        split at h <;> cases h
        next hbit =>
          rw [hbit] at hfield
          exact ⟨rfl, encodeShift_of_fields hop hshift hfield⟩
        next hbit =>
          rw [(BitVec.eq_zero_or_eq_one _).resolve_left hbit] at hfield
          exact ⟨rfl, encodeShift_of_fields hop hshift hfield⟩

/-- The offset's high bit is the low bit of the first digit of LOAD and STORE (R88). -/
theorem field_13_3_of_opcode {isStore : BitVec 1} {w : Word} (hop : (field 12 4 w).toNat / 2 = 2 + isStore.toNat) :
    field 13 3 w = 0b01#2 ++ isStore := by
  apply BitVec.eq_of_toNat_eq
  rw [toNat_append_add]
  simp only [toNat_field] at hop ⊢
  have : (1#2).toNat = 1 := rfl
  omega

/-- Settles O53, by group. -/
theorem encodeOfDecode : Obligations.EncodeOfDecode := by
  intro w i h
  change i.IsWord w
  unfold decode at h
  extract_lets d a b at h
  split at h
  case h_1 hop => exact isWord_of_decodeRelative (BitVec.eq_of_toNat_eq hop) h
  case h_2 hop => exact isWord_of_decodeGroup1 (BitVec.eq_of_toNat_eq hop) h
  case h_3 hop => exact isWord_of_decodeGroup2 (BitVec.eq_of_toNat_eq hop) h
  case h_4 hop => exact isWord_of_decodeGroup3 (BitVec.eq_of_toNat_eq hop) h
  case h_5 hop | h_6 hop | h_7 hop | h_8 hop =>
    cases h
    exact ⟨offsetInRange_offsetField w, encodeMem_of_fields (field_13_3_of_opcode (by rw [hop]; rfl))⟩
  case h_9 hop | h_10 hop | h_11 hop | h_12 hop | h_13 hop | h_14 hop =>
    cases h
    exact ⟨rfl, encodeAlu3_of_opcode (BitVec.eq_of_toNat_eq hop)⟩
  case h_15 hop =>
    cases h
    exact ⟨rfl, encodeSet_of_opcode (BitVec.eq_of_toNat_eq hop)⟩
  case h_16 =>
    have hop : (field 12 4 w).toNat = 15 := by grind [(field 12 4 w).isLt]
    cases h
    exact ⟨rfl, encodeSet_of_opcode (BitVec.eq_of_toNat_eq hop)⟩

/-! ## The words that the decoder turns away (R95) -/

theorem decodeRelative_error {n : Nat} {o : Int} {u : UnassignedSet} :
    decodeRelative n o = .error u ↔ n = 1 ∧ u = .uA := by
  unfold decodeRelative
  split <;> simp_all [eq_comm]

theorem decodeRegisterMode_error {n : Nat} {b : Reg} {u : UnassignedSet} :
    decodeRegisterMode n b = .error u ↔ n = 1 ∧ u = .uB := by
  unfold decodeRegisterMode
  split <;> simp_all [eq_comm]

theorem decodeGroup1_error {w : Word} {u : UnassignedSet} :
    decodeGroup1 w = .error u ↔
      ((field 8 4 w).toNat = 1 ∧ u = .uB) ∨ ((field 8 4 w).toNat ≠ 1 ∧ field 4 4 w ≠ 0 ∧ u = .uC) := by
  unfold decodeGroup1
  split <;> grind [decodeRegisterMode_error]

theorem decodeGroup2_error {w : Word} {u : UnassignedSet} :
    decodeGroup2 w = .error u ↔
      ((field 8 4 w).toNat = 2 ∧ field 4 4 w ≠ 0 ∧ u = .uD) ∨ ((field 8 4 w).toNat = 3 ∧ field 0 8 w ≠ 0 ∧ u = .uE) ∨
      (4 ≤ (field 8 4 w).toNat ∧ u = .uF) := by
  unfold decodeGroup2
  split
  case h_1 hcode | h_2 hcode => simp [hcode]
  case h_3 | h_4 => split <;> grind
  case h_5 => grind

theorem decodeFlagOp_error {w : Word} {u : UnassignedSet} :
    decodeFlagOp w = .error u ↔ (field 9 3 w).toNat % 2 = 1 ∧ u = .uG := by
  unfold decodeFlagOp
  split
  case h_1 hflag | h_2 hflag | h_3 hflag | h_4 hflag => simp [hflag]
  case h_5 => grind [(field 9 3 w).isLt]

theorem decodeGroup3_error {w : Word} {u : UnassignedSet} :
    decodeGroup3 w = .error u ↔
      field 7 1 w ≠ 1 ∧
        (((field 4 3 w).toNat = 6 ∧ (field 9 3 w).toNat % 2 = 1 ∧ u = .uG) ∨
         ((field 4 3 w).toNat = 7 ∧ field 0 3 w ≠ 0 ∧ u = .uH)) := by
  unfold decodeGroup3
  extract_lets d b
  split
  next hmark =>
    refine iff_of_false ?_ fun hset => hset.1 hmark
    split <;> exact nofun
  next hmark =>
    split
    case h_1 hshift | h_2 hshift | h_3 hshift | h_4 hshift | h_5 hshift | h_6 hshift => simp [hshift]
    case h_7 hshift => grind [decodeFlagOp_error]
    case h_8 => grind [(field 4 3 w).isLt]

/-- The words of each unassigned set, by their fields (R95). -/
def UnassignedSet.Holds (w : Word) : UnassignedSet → Prop
  | .uA => (field 12 4 w).toNat = 0 ∧ (field 8 4 w).toNat = 1
  | .uB => (field 12 4 w).toNat = 1 ∧ (field 8 4 w).toNat = 1
  | .uC => (field 12 4 w).toNat = 1 ∧ (field 8 4 w).toNat ≠ 1 ∧ field 4 4 w ≠ 0
  | .uD => (field 12 4 w).toNat = 2 ∧ (field 8 4 w).toNat = 2 ∧ field 4 4 w ≠ 0
  | .uE => (field 12 4 w).toNat = 2 ∧ (field 8 4 w).toNat = 3 ∧ field 0 8 w ≠ 0
  | .uF => (field 12 4 w).toNat = 2 ∧ 4 ≤ (field 8 4 w).toNat
  | .uG => (field 12 4 w).toNat = 3 ∧ field 7 1 w ≠ 1 ∧ (field 4 3 w).toNat = 6 ∧ (field 9 3 w).toNat % 2 = 1
  | .uH => (field 12 4 w).toNat = 3 ∧ field 7 1 w ≠ 1 ∧ (field 4 3 w).toNat = 7 ∧ field 0 3 w ≠ 0

/-- Every unassigned word has its opcode below 0100 (R95). -/
theorem UnassignedSet.Holds.opcode_lt {w : Word} {u : UnassignedSet} (h : u.Holds w) : (field 12 4 w).toNat < 4 := by
  cases u <;> obtain ⟨hop, -⟩ := h <;> omega

/-- The decoder turns a word away exactly where its fields put it in an unassigned set (R95, D12). -/
theorem decode_error_iff {w : Word} {u : UnassignedSet} : decode w = .error u ↔ u.Holds w := by
  unfold decode
  extract_lets d a b
  split
  case h_1 hop | h_2 hop | h_3 hop | h_4 hop =>
    cases u <;> simp [UnassignedSet.Holds, decodeRelative_error, decodeGroup1_error, decodeGroup2_error,
      decodeGroup3_error, hop]
  case h_5 hop | h_6 hop | h_7 hop | h_8 hop | h_9 hop | h_10 hop | h_11 hop | h_12 hop | h_13 hop | h_14 hop |
      h_15 hop =>
    exact iff_of_false nofun fun hu => absurd hu.opcode_lt (by simp [hop])
  case h_16 =>
    have hop : 4 ≤ (field 12 4 w).toNat := by grind
    exact iff_of_false nofun fun hu => absurd hu.opcode_lt hop.not_gt

theorem field_ne_zero_iff {lo len : Nat} {w : Word} : field lo len w ≠ 0 ↔ w.toNat / 2 ^ lo % 2 ^ len ≠ 0 := by
  rw [← toNat_field, ne_eq, ← BitVec.toNat_inj]
  rfl

theorem field_one_ne_one_iff {lo : Nat} {w : Word} : field lo 1 w ≠ 1 ↔ w.toNat / 2 ^ lo % 2 = 0 := by
  have h := toNat_field lo 1 w
  rw [ne_eq, ← BitVec.toNat_inj]
  change (field lo 1 w).toNat ≠ 1 ↔ _
  omega

/-- Settles O55: the fields of `decode_error_iff` as parts of the number. -/
theorem unassignedWordsAreTheEightSets : Obligations.UnassignedWordsAreTheEightSets := by
  intro w n
  have hw : n < 65536 := w.isLt
  simp only [decode_error_iff, UnassignedSet.Holds, toNat_field, field_ne_zero_iff, field_one_ne_one_iff]
  refine ⟨?_, ?_, ?_, ?_, ?_, ?_, ?_, ?_⟩ <;> omega

/-! ## The table of masks and matches (R94) -/

/-- Whether two rows of the table differ on a bit that both select. -/
def EncodingRow.Clash (p q : EncodingRow) : Prop := p.bits &&& q.mask ≠ q.bits &&& p.mask

theorem EncodingRow.Clash.not_both {p q : EncodingRow} (h : p.Clash q) (w : Word) :
    ¬ (p.accepts w = true ∧ q.accepts w = true) := by
  rintro ⟨hp, hq⟩
  simp only [EncodingRow.accepts, beq_iff_eq] at hp hq
  apply h
  rw [← hp, ← hq, BitVec.and_assoc, BitVec.and_assoc, BitVec.and_comm p.mask]

theorem encodingTable_pairwise_clash : encodingTable.Pairwise EncodingRow.Clash := by
  unfold EncodingRow.Clash
  decide

theorem word4_inj {a b c d a' b' c' d' : BitVec 4} :
    word4 a b c d = word4 a' b' c' d' ↔ a = a' ∧ b = b' ∧ c = c' ∧ d = d' := by
  constructor
  · intro h
    refine ⟨?_, ?_, ?_, ?_⟩
    · rw [← field_12_4_word4 a b c d, h, field_12_4_word4]
    · rw [← field_8_4_word4 a b c d, h, field_8_4_word4]
    · rw [← field_4_4_word4 a b c d, h, field_4_4_word4]
    · rw [← field_0_4_word4 a b c d, h, field_0_4_word4]
  · rintro ⟨rfl, rfl, rfl, rfl⟩
    rfl

/-- A word matches a row digit by digit. -/
theorem EncodingRow.accepts_iff_digits {p q r s a b c d : BitVec 4} {w : Word} :
    (EncodingRow.mk (word4 p q r s) (word4 a b c d)).accepts w = true ↔
      field 12 4 w &&& p = a ∧ field 8 4 w &&& q = b ∧ field 4 4 w &&& r = c ∧ field 0 4 w &&& s = d := by
  rw [EncodingRow.accepts, beq_iff_eq, ← word4_inj, ← word4_and_word4, word4_fields]

/-- The unassigned sets as rows of a table of their own: where the spec says that a field is not 0, one row for each bit
of the field that may be set (R95). -/
def UnassignedSet.rows : UnassignedSet → List EncodingRow
  | .uA => [⟨word4 0xF 0xF 0 0, word4 0 1 0 0⟩]
  | .uB => [⟨word4 0xF 0xF 0 0, word4 1 1 0 0⟩]
  | .uC => [1, 2, 4, 8].map fun k => ⟨word4 0xF 0 k 0, word4 1 0 k 0⟩
  | .uD => [1, 2, 4, 8].map fun k => ⟨word4 0xF 0xF k 0, word4 2 2 k 0⟩
  | .uE => [1, 2, 4, 8].map (fun k => ⟨word4 0xF 0xF k 0, word4 2 3 k 0⟩) ++
      [1, 2, 4, 8].map fun k => ⟨word4 0xF 0xF 0 k, word4 2 3 0 k⟩
  | .uF => [4, 8].map fun k => ⟨word4 0xF k 0 0, word4 2 k 0 0⟩
  | .uG => [⟨word4 0xF 2 0xF 0, word4 3 2 6 0⟩]
  | .uH => [1, 2, 4].map fun k => ⟨word4 0xF 0 0xF k, word4 3 0 7 k⟩

/-- No unassigned set meets a row of the table of assigned encodings. -/
theorem UnassignedSet.rows_clash (u : UnassignedSet) : ∀ p ∈ u.rows, ∀ q ∈ encodingTable, p.Clash q := by
  unfold EncodingRow.Clash
  cases u <;> decide

theorem digit_bit_of_ne_zero (x : BitVec 4) (hx : x ≠ 0) :
    x &&& 1 = 1 ∨ x &&& 2 = 2 ∨ x &&& 4 = 4 ∨ x &&& 8 = 8 := by
  decide +revert

theorem digit_bit_of_four_le (x : BitVec 4) (hx : 4 ≤ x.toNat) : x &&& 4 = 4 ∨ x &&& 8 = 8 := by
  decide +revert

theorem digit_bit_of_odd_slice (x : BitVec 4) (hx : (x.extractLsb' 1 3).toNat % 2 = 1) : x &&& 2 = 2 := by
  decide +revert

theorem digit_bit_of_slice_ne_zero (x : BitVec 4) (hx : x.extractLsb' 0 3 ≠ 0) :
    x &&& 1 = 1 ∨ x &&& 2 = 2 ∨ x &&& 4 = 4 := by
  decide +revert

/-- The rows of an unassigned set cover it. -/
theorem UnassignedSet.Holds.accepted {w : Word} {u : UnassignedSet} (h : u.Holds w) :
    ∃ p ∈ u.rows, p.accepts w = true := by
  have digit_eq {x : BitVec 4} {n : Nat} (hx : x.toNat = n) : x = BitVec.ofNat 4 n := (BitVec.toNat_eq_nat.mp hx).2
  cases u
  case uA | uB =>
    obtain ⟨hop, hcode⟩ := h
    simp [UnassignedSet.rows, EncodingRow.accepts_iff_digits, digit_eq hop, digit_eq hcode]
  case uC =>
    obtain ⟨hop, -, hmid⟩ := h
    simpa [UnassignedSet.rows, EncodingRow.accepts_iff_digits, digit_eq hop] using digit_bit_of_ne_zero _ hmid
  case uD =>
    obtain ⟨hop, hcode, hmid⟩ := h
    simpa [UnassignedSet.rows, EncodingRow.accepts_iff_digits, digit_eq hop, digit_eq hcode] using
      digit_bit_of_ne_zero _ hmid
  case uE =>
    obtain ⟨hop, hcode, hlow⟩ := h
    have hdigit : field 4 4 w ≠ 0 ∨ field 0 4 w ≠ 0 := by
      by_contra! hzero
      apply hlow
      calc field 0 8 w = field 4 4 w ++ field 0 4 w := (field_append 0 4 4 w).symm
        _ = 0 := by rw [hzero.1, hzero.2]; rfl
    have hbit := hdigit.imp (digit_bit_of_ne_zero _) (digit_bit_of_ne_zero _)
    simpa [UnassignedSet.rows, EncodingRow.accepts_iff_digits, digit_eq hop, digit_eq hcode, or_assoc] using hbit
  case uF =>
    obtain ⟨hop, hcode⟩ := h
    simpa [UnassignedSet.rows, EncodingRow.accepts_iff_digits, digit_eq hop] using digit_bit_of_four_le _ hcode
  case uG =>
    obtain ⟨hop, hmark, hsix, hodd⟩ := h
    have hmid := (toNat_field_4_4_of_unmarked hmark).trans hsix
    rw [← extractLsb'_field (lo := 8) (len := 4) (i := 1) (by decide)] at hodd
    simpa [UnassignedSet.rows, EncodingRow.accepts_iff_digits, digit_eq hop, digit_eq hmid] using
      digit_bit_of_odd_slice _ hodd
  case uH =>
    obtain ⟨hop, hmark, hseven, hlow⟩ := h
    have hmid := (toNat_field_4_4_of_unmarked hmark).trans hseven
    rw [← extractLsb'_field (lo := 0) (len := 4) (i := 0) (by decide)] at hlow
    simpa [UnassignedSet.rows, EncodingRow.accepts_iff_digits, digit_eq hop, digit_eq hmid] using
      digit_bit_of_slice_ne_zero _ hlow

/-- The rule of `Laws.EncodesItsRow`, for every instruction. -/
theorem encodingRow_accepts_encode (i : Instr) : (encodingRow i).accepts (encode i) = true := by
  open Laws.EncodesItsRow in
  cases i
  exacts [setlo _ _, sethi _ _, and _ _ _, or _ _ _, add _ _ _, sub _ _ _, mul _ _ _, xor _ _ _, inc _ _, dec _ _,
    lsl _ _, lsr _ _, lsl8 _ _, lsr8 _ _, asl _ _, asr _ _, savef _, rstrf _, fon _, foff _, fset5 _, fset4 _,
    load _ _ _, store _ _ _, br _, bl _, bge _, ble _, bg _, bule _, bug _, bz _, bnz _, bc _, bnc _, bs _, bns _,
    bv _, bnv _, brr _, blr _, bger _, bler _, bgr _, buler _, bugr _, bzr _, bnzr _, bcr _, bncr _, bsr _, bnsr _,
    bvr _, bnvr _, call _ _, ret _ _, swi _, rti]

/-- A word that matches a row is in no unassigned set, so the decoder does not turn it away. -/
theorem decode_ok_of_accepts {r : EncodingRow} {w : Word} (hr : r ∈ encodingTable) (h : r.accepts w = true) :
    ∃ i, decode w = .ok i := by
  cases hw : decode w with
  | ok i => exact ⟨i, rfl⟩
  | error u =>
    obtain ⟨p, hp, hpw⟩ := (decode_error_iff.mp hw).accepted
    exact absurd ⟨hpw, h⟩ ((u.rows_clash p hp r hr).not_both w)

/-- Settles O54: the row of a decoded instruction accepts its word, which is the word decoded (`encodeOfDecode`). -/
theorem decoderFollowsTheTable : Obligations.DecoderFollowsTheTable := by
  refine ⟨?_, ?_, ?_⟩
  · intro w i h
    obtain ⟨-, rfl⟩ := encodeOfDecode w i h
    exact encodingRow_accepts_encode i
  · rintro w ⟨r, hr, h⟩
    exact decode_ok_of_accepts hr h
  · exact encodingTable_pairwise_clash.imp EncodingRow.Clash.not_both

/-! ## Words of the spec's examples -/

/-- Settles O51, by running the decoder on each word. -/
theorem workedWordsDecode : Obligations.WorkedWordsDecode :=
  ⟨rfl, rfl, rfl, rfl, rfl, rfl, rfl, rfl, rfl, rfl, rfl, rfl, rfl, rfl, rfl, rfl, rfl⟩

end Sys2Proof
end

section
/-! PROOFS. SETLO and SETHI (40_set.md, R120 to R122): their words, their values as numbers, and the two in sequence. -/

namespace Sys2Proof

/-! ## The word of format SET as a number (R82) -/

@[simp] theorem toNat_regBits (r : Reg) : (regBits r).toNat = r.val :=
  Nat.mod_eq_of_lt r.isLt

/-- A byte as a number from its two digits. -/
theorem toNat_byte_digits (v : BitVec 8) :
    v.toNat = 16 * (v.extractLsb' 4 4).toNat + (v.extractLsb' 0 4).toNat := by
  conv_lhs => rw [← join_byte v, toNat_append_add]
  omega

theorem ofNat_encodeSet (op : BitVec 4) (d : Reg) (v : BitVec 8) :
    BitVec.ofNat 16 (4096 * op.toNat + 256 * d.val + v.toNat) = encodeSet op d v := by
  rw [encodeSet, ← ofNat_word4, toNat_regBits, toNat_byte_digits v, Nat.add_assoc _ (16 * _)]

end Sys2Proof

namespace Sys2Proof.Machine

/-- The number of an instruction's encoding decodes to the instruction. -/
theorem decodesTo_of_encode {i : Instr} {n : Nat} (hwf : i.wellFormed = true) (hn : BitVec.ofNat 16 n = encode i) :
    DecodesTo n i := by
  rw [DecodesTo, hn, decodeOfEncode i hwf]

/-! ## The values written -/

/-- SETLO's value is the word of the byte's signed number (R120). -/
theorem signedByte_eq_ofInt (v : BitVec 8) : signedByte v = BitVec.ofInt 16 v.toInt := rfl

/-- SETHI's value, from its number `highByte_toNat` (R121). -/
theorem highByte_eq_ofNat (v : BitVec 8) (old : Word) :
    highByte v old = BitVec.ofNat 16 (256 * v.toNat + old.toNat % 256) := by
  rw [← highByte_toNat, BitVec.ofNat_toNat, BitVec.setWidth_eq]

/-- Sign extension keeps the byte in bits 7:0. -/
theorem signedByte_toNat_mod (v : BitVec 8) : (signedByte v).toNat % 256 = v.toNat := by
  have hv := v.isLt
  rw [signedByte_eq_ofInt, BitVec.toNat_ofInt, BitVec.toInt_eq_toNat_cond]
  split <;> omega

/-- The high byte of a word put above its sign-extended low byte is the word (R122). -/
theorem highByte_signedByte (v : Word) :
    highByte (BitVec.ofNat 8 (v.toNat / 256)) (signedByte (BitVec.ofNat 8 v.toNat)) = v := by
  have hv := v.isLt
  apply BitVec.eq_of_toNat_eq
  rw [highByte_toNat, signedByte_toNat_mod, BitVec.toNat_ofNat, BitVec.toNat_ofNat]
  omega

/-! ## One instruction -/

/-- Settles O1: SETLO ends by `retire` with the sign-extended byte. -/
theorem setloLoadsSignedByte : Obligations.SetloLoadsSignedByte := by
  intro s d v
  refine ⟨decodesTo_of_encode rfl (ofNat_encodeSet 0xE#4 d v), ?_⟩
  rw [← signedByte_eq_ofInt]
  exact completes_of_retire rfl

/-- Settles O2: SETHI ends by `retire` with the byte above the register's low byte. -/
theorem sethiReplacesHighByte : Obligations.SethiReplacesHighByte := by
  intro s d v
  refine ⟨decodesTo_of_encode rfl (ofNat_encodeSet 0xF#4 d v), ?_⟩
  rw [← highByte_eq_ofNat]
  exact completes_of_retire rfl

/-! ## Two instructions in sequence -/

/-- A list of instructions goes on from the next state of its first. -/
theorem execAll_cons_of_next {i : Instr} {s t : State} (h : exec i s = .next t) (rest : List Instr) :
    execAll (i :: rest) s = execAll rest t := by
  rw [execAll, h]

theorem execAll_singleton_of_next {i : Instr} {s t : State} (h : exec i s = .next t) : execAll [i] s = .next t :=
  execAll_cons_of_next h []

theorem SameMemories.trans {s t u : State} (hst : SameMemories s t) (htu : SameMemories t u) : SameMemories s u := by
  obtain ⟨hdata, hcode⟩ := hst
  obtain ⟨hdata', hcode'⟩ := htu
  exact ⟨fun a => (hdata' a).trans (hdata a), hcode'.trans hcode⟩

theorem WritesOnly.readReg_same {d : Reg} {v : Word} {s t : State} (h : WritesOnly d v s t) (hd : d ≠ 0) :
    t.readReg d = v := by
  rw [h d, if_pos ⟨rfl, hd⟩]

/-- The second of two writes to one register stands; what it writes to R0 does not matter (R21). -/
theorem WritesOnly.overwrite {d : Reg} {x y v : Word} {s t u : State} (hst : WritesOnly d x s t)
    (htu : WritesOnly d y t u) (hv : d ≠ 0 → y = v) : WritesOnly d v s u := by
  intro r
  rw [htu r, hst r]
  by_cases hr : r = d ∧ r ≠ 0
  · obtain ⟨rfl, hd⟩ := hr
    simp [hd, hv hd]
  · simp only [if_neg hr]

/-- Settles O3: `setloLoadsSignedByte`, then `sethiReplacesHighByte` over the low byte it leaves
(`highByte_signedByte`). -/
theorem setloSethiSequenceLoadsAnyWord : Obligations.SetloSethiSequenceLoadsAnyWord := by
  intro s d v
  obtain ⟨-, t, hlo, hregs, hflags, hpc, hmem, -⟩ := setloLoadsSignedByte s d (BitVec.ofNat 8 v.toNat)
  obtain ⟨-, u, hhi, hregs', hflags', hpc', hmem', -⟩ :=
    sethiReplacesHighByte t d (BitVec.ofNat 8 (v.toNat / 256))
  refine ⟨u, ?_, ?_, hflags'.trans hflags, ?_, hmem.trans hmem'⟩
  · rw [execAll_cons_of_next hlo, execAll_singleton_of_next hhi]
  · apply hregs.overwrite hregs'
    intro hd
    rw [hregs.readReg_same hd, ← highByte_eq_ofNat, ← signedByte_eq_ofInt, highByte_signedByte]
  · rw [hpc', hpc, BitVec.add_assoc]
    rfl

end Sys2Proof.Machine
end

section
/-! PROOFS. The arithmetic and bit-wise instructions (41_arith_logic.md, R130 to R138): their words, the flags an
operation ends with, v as a bit formula, the modes of MUL, and what carry-block hides. -/

namespace Sys2Proof

/-! ## The word of the three-register format as a number (R83) -/

theorem ofNat_encodeAlu3 (op : BitVec 4) (d a b : Reg) :
    BitVec.ofNat 16 (4096 * op.toNat + 256 * d.val + 16 * a.val + b.val) = encodeAlu3 op d a b := by
  rw [encodeAlu3, ← ofNat_word4, toNat_regBits, toNat_regBits, toNat_regBits]

end Sys2Proof

namespace Sys2Proof.Machine

/-! ## The two ways to end -/

/-- A bit-wise operation takes s and z from its value and keeps the other flags (R130). -/
theorem completes_of_retireBitwise {i : Instr} {s : State} {d : Reg} {r : Word}
    (h : exec i s = .next (s.retireBitwise d r)) :
    Completes i s d r { s.flags with s := r.getLsbD 15, z := r == 0#16 } (s.pc + 1#16) :=
  completes_of_retire h

/-- An arithmetic operation takes four flags from its result and keeps carry-block (R130, R31). -/
theorem completes_of_retireArith {i : Instr} {s : State} {d : Reg} {r : ArithResult}
    (h : exec i s = .next (s.retireArith d r)) :
    Completes i s d r.value
      { cb := s.flags.cb, c := r.carry, v := r.overflow, z := r.value == 0#16, s := r.value.getLsbD 15 }
      (s.pc + 1#16) :=
  completes_of_retire h

/-! ## AND, OR, XOR -/

/-- Settles O4: each of the three is a word of the three-register format and ends by `retireBitwise`. -/
theorem bitwiseOperationsComplete : Obligations.BitwiseOperationsComplete := by
  intro s d a b
  exact ⟨decodesTo_of_encode rfl (ofNat_encodeAlu3 0x8#4 d a b), completes_of_retireBitwise rfl,
    decodesTo_of_encode rfl (ofNat_encodeAlu3 0x9#4 d a b), completes_of_retireBitwise rfl,
    decodesTo_of_encode rfl (ofNat_encodeAlu3 0xD#4 d a b), completes_of_retireBitwise rfl⟩

/-! ## ADD and SUB -/

theorem exec_add (d a b : Reg) (s : State) :
    exec (.add d a b) s = .next (s.retireArith d (addArith (s.readReg a) (s.readReg b) s.flags.carryIn)) := rfl

theorem exec_sub (d a b : Reg) (s : State) :
    exec (.sub d a b) s = .next (s.retireArith d (subArith (s.readReg a) (s.readReg b) s.flags.borrowIn)) := rfl

/-- A sum overflows exactly when equal operand signs give another sign (R134). -/
theorem addArith_overflow_iff (x y : Word) (cin : Bool) :
    x.toInt + y.toInt + (cin.toNat : Int) ≠ (addArith x y cin).value.toInt ↔
      x.getLsbD 15 = y.getLsbD 15 ∧ (addArith x y cin).value.getLsbD 15 ≠ x.getLsbD 15 := by
  have hx := x.isLt
  have hy := y.isLt
  have hcin := cin.toNat_le
  simp only [addArith, bit15_eq_decide, signed_value, BitVec.toNat_ofNat, ne_eq, decide_eq_decide]
  split <;> split <;> split <;> omega

/-- A difference overflows exactly when different operand signs give another sign than the first (R135). -/
theorem subArith_overflow_iff (x y : Word) (bin : Bool) :
    x.toInt - y.toInt - (bin.toNat : Int) ≠ (subArith x y bin).value.toInt ↔
      x.getLsbD 15 ≠ y.getLsbD 15 ∧ (subArith x y bin).value.getLsbD 15 ≠ x.getLsbD 15 := by
  have hx := x.isLt
  have hy := y.isLt
  have hbin := bin.toNat_le
  simp only [subArith, bit15_eq_decide, signed_value, BitVec.toNat_ofInt, ne_eq, decide_eq_decide]
  split <;> split <;> split <;> omega

/-- The difference is the sum with the complement: -y is ~y + 1 (R135). -/
theorem subArith_value_eq (x y : Word) (bin : Bool) :
    (subArith x y bin).value = BitVec.ofNat 16 (x.toNat + (~~~y).toNat + (1 - bin.toNat)) := by
  have hbin := bin.toNat_le
  apply BitVec.eq_of_toNat_eq
  simp only [subArith, BitVec.toNat_ofInt, BitVec.toNat_ofNat, BitVec.toNat_not]
  omega

/-- No borrow is a carry out of the sum with the complement (R135, C2). -/
theorem sub_nonneg_iff_carry (x y : Word) (bin : Bool) :
    0 ≤ (x.toNat : Int) - (y.toNat : Int) - (bin.toNat : Int) ↔
      65536 ≤ x.toNat + (~~~y).toNat + (1 - bin.toNat) := by
  have hy := y.isLt
  have hbin := bin.toNat_le
  rw [BitVec.toNat_not]
  omega

/-- Settles O5: ADD ends by `retireArith` with `addArith`, whose overflow is `addArith_overflow_iff`. -/
theorem addSumsWithUnblockedCarry : Obligations.AddSumsWithUnblockedCarry := by
  intro s d a b
  rw [← Flags.carryIn_toNat]
  exact ⟨decodesTo_of_encode rfl (ofNat_encodeAlu3 0xA#4 d a b), completes_of_retireArith (exec_add d a b s),
    addArith_overflow_iff _ _ _⟩

/-- Settles O6: SUB ends by `retireArith` with `subArith`; its value, carry and overflow each by its own lemma. -/
theorem subSubtractsWithUnblockedBorrow : Obligations.SubSubtractsWithUnblockedBorrow := by
  intro s d a b
  rw [← Flags.borrowIn_toNat]
  exact ⟨decodesTo_of_encode rfl (ofNat_encodeAlu3 0xB#4 d a b), completes_of_retireArith (exec_sub d a b s),
    subArith_value_eq _ _ _, sub_nonneg_iff_carry _ _ _, subArith_overflow_iff _ _ _⟩

/-! ## The two halves of the signed product (R136) -/

/-- A 32-bit signed number is its high word above its low word. -/
theorem ofInt_append_ofInt (n : Int) : BitVec.ofInt 16 (n / 65536) ++ BitVec.ofInt 16 n = BitVec.ofInt 32 n := by
  apply BitVec.eq_of_toNat_eq
  simp only [toNat_append_add, BitVec.toNat_ofInt]
  omega

/-- The low word of the unsigned product is that of the signed one. -/
theorem ofNat_mul_toNat (x y : Word) : BitVec.ofNat 16 (x.toNat * y.toNat) = BitVec.ofInt 16 (x.toInt * y.toInt) := by
  rw [BitVec.ofNat_mul, BitVec.ofInt_mul, BitVec.ofInt_toInt, BitVec.ofInt_toInt, BitVec.ofNat_toNat,
    BitVec.ofNat_toNat, BitVec.setWidth_eq, BitVec.setWidth_eq]

/-- The product of two sign-extended words is the 32-bit signed product. -/
theorem signExtend_mul_signExtend (x y : Word) :
    x.signExtend 32 * y.signExtend 32 = BitVec.ofInt 32 (x.toInt * y.toInt) :=
  (BitVec.ofInt_mul ..).symm

theorem mulHighValue_eq_extractLsb' (x y : Word) :
    mulHighValue x y = (x.signExtend 32 * y.signExtend 32).extractLsb' 16 16 := by
  rw [signExtend_mul_signExtend, ← ofInt_append_ofInt, BitVec.extractLsb'_append_eq_left]
  rfl

/-- The words of the two modes make up the 32-bit signed product. -/
theorem highWord_append_lowWord (x y : Word) :
    (x.signExtend 32 * y.signExtend 32).extractLsb' 16 16 ++ BitVec.ofNat 16 (x.toNat * y.toNat) =
      BitVec.ofInt 32 (x.toInt * y.toInt) := by
  rw [← mulHighValue_eq_extractLsb', ofNat_mul_toNat]
  exact ofInt_append_ofInt _

/-! ## MUL by its modes (R137) -/

theorem exec_mul (d a b : Reg) (s : State) : exec (.mul d a b) s = execMul d a b s := rfl

theorem exec_mul_of_low {s : State} (d a b : Reg) (h : mulMode s.flags = .low) :
    exec (.mul d a b) s = .next (s.retireArith d (mulLowArith (s.readReg a) (s.readReg b))) := by
  rw [exec_mul, execMul, h]

theorem exec_mul_of_high {s : State} (d a b : Reg) (h : mulMode s.flags = .high) :
    exec (.mul d a b) s = .next (s.mulHigh d (s.readReg a) (s.readReg b)) := by
  rw [exec_mul, execMul, h]

theorem exec_mul_of_undefined {s : State} (d a b : Reg) (h : mulMode s.flags = .undefined) :
    exec (.mul d a b) s = .fault .mulUndefinedFlags := by
  rw [exec_mul, execMul, h]

theorem mulMode_eq_low {f : Flags} (h : f.toBits = 0x00#5 ∨ 0x10#5 ≤ f.toBits) : mulMode f = .low := by
  rw [mulMode_spec, if_pos h]

theorem mulMode_eq_high {f : Flags} (h : f.toBits = 0x01#5) : mulMode f = .high := by
  rw [mulMode_spec, h]
  rfl

theorem mulMode_eq_undefined {f : Flags} (hlow : 0x02#5 ≤ f.toBits) (hhigh : f.toBits ≤ 0x0F#5) :
    mulMode f = .undefined := by
  rw [mulMode_spec, if_neg (by bv_omega), if_neg (by bv_omega)]

/-- Carry-block is off where F is 0x01 (R26). -/
theorem Flags.cb_of_toBits_one {f : Flags} (h : f.toBits = 0x01#5) : f.cb = false := by
  rw [← f.ofBits_toBits, h]
  rfl

/-- The result of a high-word MUL, its v and c drawn (R136, D10). -/
def State.mulHighArith (s : State) (x y : Word) : ArithResult :=
  { value := mulHighValue x y, overflow := Config.mulHiV s.draws, carry := Config.mulHiC s.draws }

/-- What an arithmetic operation leaves besides the draw counter. -/
theorem State.retireArith_spec (s : State) (d : Reg) (r : ArithResult) :
    WritesOnly d r.value s (s.retireArith d r) ∧ (s.retireArith d r).flags = s.flags.withArith r ∧
      (s.retireArith d r).pc = s.pc + 1#16 ∧ SameMemories s (s.retireArith d r) :=
  ⟨fun k => s.readReg_retire d k r.value (s.flags.withArith r), s.retire_flags d r.value (s.flags.withArith r),
    s.retire_pc d r.value (s.flags.withArith r), fun a => s.readData_retire d r.value a (s.flags.withArith r),
    s.retire_imem d r.value (s.flags.withArith r)⟩

/-- A high-word MUL ends as an arithmetic operation does, but for the draw counter (R136). -/
theorem State.mulHigh_spec (s : State) (d : Reg) (x y : Word) :
    WritesOnly d (mulHighValue x y) s (s.mulHigh d x y) ∧
      (s.mulHigh d x y).flags = s.flags.withArith (s.mulHighArith x y) ∧
      (s.mulHigh d x y).pc = s.pc + 1#16 ∧ SameMemories s (s.mulHigh d x y) :=
  s.retireArith_spec d (s.mulHighArith x y)

/-- Settles O7: the mode by the flags (`mulMode_spec`), then the end of that mode. -/
theorem mulModesByFlags : Obligations.MulModesByFlags := by
  intro s d a b
  refine ⟨decodesTo_of_encode rfl (ofNat_encodeAlu3 0xC#4 d a b), fun hlow => ?_, fun hhigh => ?_,
    fun ⟨hlo, hhi⟩ => exec_mul_of_undefined d a b (mulMode_eq_undefined hlo hhi)⟩
  · exact completes_of_retireArith (exec_mul_of_low d a b (mulMode_eq_low hlow))
  · rw [← mulHighValue_eq_extractLsb', ← Flags.cb_of_toBits_one hhigh]
    exact ⟨_, _, _, exec_mul_of_high d a b (mulMode_eq_high hhigh), s.mulHigh_spec ..⟩

/-! ## The 32-bit signed product by two MULs -/

theorem exec_fset5 (v : BitVec 5) (s : State) :
    exec (.fset5 v) s = .next (s.withFlags (Flags.ofBits v)).advance := rfl

theorem WritesOnly.readReg_other {d r : Reg} {v : Word} {s t : State} (h : WritesOnly d v s t) (hr : r ≠ d) :
    t.readReg r = s.readReg r := by
  rw [h r, if_neg fun hd => hr hd.1]

/-- Settles O8: `mulModesByFlags` at the flags that each FSET5 leaves; the first MUL keeps the operands of the
second. -/
theorem mulSequenceGivesSignedProduct : Obligations.MulSequenceGivesSignedProduct := by
  intro s hi lo a b hhi hlo hne hloa hlob
  obtain ⟨-, low, -, -⟩ := mulModesByFlags (s.withFlags (Flags.ofBits 0x00#5)).advance lo a b
  obtain ⟨t, hexec, hregs, -, hpc, hmem, -⟩ := low (.inl (Flags.toBits_ofBits 0x00#5))
  obtain ⟨-, -, high, -⟩ := mulModesByFlags (t.withFlags (Flags.ofBits 0x01#5)).advance hi a b
  obtain ⟨v, c, u, hexec', hregs', -, hpc', hmem'⟩ := high (Flags.toBits_ofBits 0x01#5)
  simp only [State.readReg_advance, State.readReg_withFlags] at hregs hregs'
  have ha : t.readReg a = s.readReg a := hregs.readReg_other hloa.symm
  have hb : t.readReg b = s.readReg b := hregs.readReg_other hlob.symm
  rw [ha, hb] at hregs'
  refine ⟨u, ?_, ?_, fun r hr hr' => ?_, hmem.trans hmem', ?_⟩
  · rw [execAll_cons_of_next (exec_fset5 ..), execAll_cons_of_next hexec, execAll_cons_of_next (exec_fset5 ..),
      execAll_singleton_of_next hexec']
  · have hlow : u.readReg lo = t.readReg lo := hregs'.readReg_other hne.symm
    rw [hregs'.readReg_same hhi, hlow, hregs.readReg_same hlo]
    exact highWord_append_lowWord _ _
  · exact (hregs'.readReg_other hr).trans (hregs.readReg_other hr')
  · rw [hpc', State.advance_pc, State.withFlags_pc, hpc, State.advance_pc, State.withFlags_pc]
    simp only [BitVec.add_assoc]
    rfl

/-! ## Carry-block hides the other flags (R33, R134) -/

/-- The end of an arithmetic instruction reads no flag but carry-block, which it keeps (R31). -/
theorem State.retireArith_withFlags {s : State} {f : Flags} (h : f.cb = s.flags.cb) (d : Reg) (r : ArithResult) :
    (s.withFlags f).retireArith d r = s.retireArith d r := by
  have hflags : f.withArith r = s.flags.withArith r := by
    simp only [Flags.withArith, Flags.withSignZero, h]
  calc (s.withFlags f).retireArith d r
      = (s.withFlags f).retire d r.value (s.flags.withArith r) := congrArg (State.retire _ d r.value) hflags
    _ = (s.retire d r.value (s.flags.withArith r)).withFlags (s.flags.withArith r) := s.retire_withFlags ..
    _ = s.retireArith d r := rfl

theorem mulMode_eq_low_of_blocked {f : Flags} (h : f.cb = true) : mulMode f = .low := by
  rw [mulMode, if_pos h]

/-- The result of ASL (R165). -/
def aslArith (x : Word) (cin : Bool) : ArithResult :=
  { value := shiftLeftValue x cin, overflow := aslOverflow x, carry := x.getLsbD 15 }

theorem exec_asl (d b : Reg) (s : State) :
    exec (.asl d b) s = .next (s.retireArith d (aslArith (s.readReg b) s.flags.carryIn)) := rfl

/-- Settles O11: where carry-block is on, the carry and borrow are off and MUL is in LOW mode, so the results agree, and
`State.retireArith_withFlags` ends each instruction alike. -/
theorem blockedArithmeticIgnoresOtherFlags : Obligations.BlockedArithmeticIgnoresOtherFlags := by
  intro s f d a b hs hf
  have hend := State.retireArith_withFlags (hf.trans hs.symm) d
  obtain ⟨hcarry, hborrow⟩ := Flags.no_carry_of_blocked hs
  obtain ⟨hcarry', hborrow'⟩ := Flags.no_carry_of_blocked hf
  refine ⟨?_, ?_, ?_, ?_⟩
  · rw [exec_add, exec_add, State.withFlags_flags, hcarry, hcarry', hend]
    rfl
  · rw [exec_sub, exec_sub, State.withFlags_flags, hborrow, hborrow', hend]
    rfl
  · rw [exec_mul_of_low d a b (mulMode_eq_low_of_blocked hs), exec_mul_of_low d a b (mulMode_eq_low_of_blocked hf),
      hend]
    rfl
  · rw [exec_asl, exec_asl, State.withFlags_flags, hcarry, hcarry', hend]
    rfl

end Sys2Proof.Machine
end

section
/-! PROOFS. INC and DEC (42_inc_dec.md, R150 to R152): their words, and their results as those of ADD and SUB with no
incoming carry or borrow. -/

namespace Sys2Proof

/-! ## The word of format INCDEC as a number (R84) -/

/-- The third digit: the mark 1, the bit of DEC and the two high bits of the amount less one. -/
theorem toNat_amount_digit (isDec : BitVec 1) (e : BitVec 6) :
    (1#1 ++ isDec ++ e.extractLsb' 4 2 : BitVec 4).toNat = 8 + 4 * isDec.toNat + e.toNat / 16 := by
  have he := e.isLt
  simp only [toNat_append_add, BitVec.extractLsb'_toNat, BitVec.toNat_ofNat]
  omega

theorem ofNat_encodeIncDec (isDec : BitVec 1) (d : Reg) {n : Nat} (h : amountInRange n = true) :
    BitVec.ofNat 16 (0x3080 + 64 * isDec.toNat + 256 * d.val + (n - 1)) = encodeIncDec isDec d n := by
  have hn := toNat_ofNat_amount h
  dsimp only [encodeIncDec]
  rw [← ofNat_word4, toNat_regBits, toNat_amount_digit, BitVec.extractLsb'_toNat, BitVec.toNat_ofNat 3 4]
  congr 1
  omega

theorem amountInRange_of_bounds {n : Nat} (hlo : 1 ≤ n) (hhi : n ≤ 64) : amountInRange n = true := by
  rw [amountInRange, decide_eq_true hlo, decide_eq_true hhi, Bool.and_self]

end Sys2Proof

namespace Sys2Proof.Machine

/-! ## The results as those of ADD and SUB (R150, R151) -/

theorem exec_inc (d : Reg) (n : Nat) (s : State) :
    exec (.inc d n) s = .next (s.retireArith d (incArith (s.readReg d) n)) := rfl

theorem exec_dec (d : Reg) (n : Nat) (s : State) :
    exec (.dec d n) s = .next (s.retireArith d (decArith (s.readReg d) n)) := rfl

theorem toNat_ofNat_of_le_64 {n : Nat} (h : n ≤ 64) : (BitVec.ofNat 16 n).toNat = n := by
  rw [BitVec.toNat_ofNat]
  omega

theorem bit15_ofNat_of_le_64 {n : Nat} (h : n ≤ 64) : (BitVec.ofNat 16 n).getLsbD 15 = false := by
  rw [bit15_eq_decide, toNat_ofNat_of_le_64 h, decide_eq_false_iff_not]
  omega

theorem toInt_ofNat_of_le_64 {n : Nat} (h : n ≤ 64) : (BitVec.ofNat 16 n).toInt = n := by
  rw [signed_value, toNat_ofNat_of_le_64 h, if_neg (by omega)]

/-- INC answers as ADD of the amount with the carry forced to 0. -/
theorem incArith_eq_addArith (x : Word) {n : Nat} (h : n ≤ 64) :
    incArith x n = addArith x (BitVec.ofNat 16 n) false := by
  simp only [incArith, addArith, toNat_ofNat_of_le_64 h, toInt_ofNat_of_le_64 h, Bool.toNat_false, Nat.add_zero,
    Nat.cast_zero, Int.add_zero]

/-- DEC answers as SUB of the amount with the borrow forced to 0. -/
theorem decArith_eq_subArith (x : Word) {n : Nat} (h : n ≤ 64) :
    decArith x n = subArith x (BitVec.ofNat 16 n) false := by
  simp only [decArith, subArith, toNat_ofNat_of_le_64 h, toInt_ofNat_of_le_64 h, Bool.toNat_false, Nat.cast_zero,
    Int.sub_zero]

/-- Adding an amount, whose sign bit is 0, overflows exactly when the sign bit goes on. -/
theorem incArith_overflow_iff (x : Word) {n : Nat} (h : n ≤ 64) :
    x.toInt + (n : Int) ≠ (incArith x n).value.toInt ↔
      x.getLsbD 15 = false ∧ (incArith x n).value.getLsbD 15 = true := by
  have hadd := addArith_overflow_iff x (BitVec.ofNat 16 n) false
  rw [← incArith_eq_addArith x h, toInt_ofNat_of_le_64 h, bit15_ofNat_of_le_64 h, Bool.toNat_false, Nat.cast_zero,
    Int.add_zero] at hadd
  rw [hadd]
  refine and_congr_right fun hx => ?_
  rw [hx, Bool.ne_false_iff]

/-- Subtracting an amount, whose sign bit is 0, overflows exactly when the sign bit goes off. -/
theorem decArith_overflow_iff (x : Word) {n : Nat} (h : n ≤ 64) :
    x.toInt - (n : Int) ≠ (decArith x n).value.toInt ↔
      x.getLsbD 15 = true ∧ (decArith x n).value.getLsbD 15 = false := by
  have hsub := subArith_overflow_iff x (BitVec.ofNat 16 n) false
  rw [← decArith_eq_subArith x h, toInt_ofNat_of_le_64 h, bit15_ofNat_of_le_64 h, Bool.toNat_false, Nat.cast_zero,
    Int.sub_zero, Bool.ne_false_iff] at hsub
  rw [hsub]
  refine and_congr_right fun hx => ?_
  rw [hx, ne_eq, Bool.not_eq_true]

/-- DEC's carry is on when no borrow is needed (R151). -/
theorem decArith_carry (x : Word) (n : Nat) : (decArith x n).carry = decide (n ≤ x.toNat) :=
  decide_eq_decide.mpr (by omega)

/-! ## The two instructions -/

/-- Settles O9: INC ends by `retireArith` with `incArith`, whose overflow is `incArith_overflow_iff`. -/
theorem incAddsItsAmount : Obligations.IncAddsItsAmount := by
  intro s d n hlo hhi
  have hrange := amountInRange_of_bounds hlo hhi
  exact ⟨decodesTo_of_encode hrange (ofNat_encodeIncDec 0#1 d hrange), completes_of_retireArith (exec_inc d n s),
    incArith_overflow_iff _ hhi⟩

/-- Settles O10: DEC ends by `retireArith` with `decArith`; its carry and overflow each by its own lemma. -/
theorem decSubtractsItsAmount : Obligations.DecSubtractsItsAmount := by
  intro s d n hlo hhi
  have hrange := amountInRange_of_bounds hlo hhi
  refine ⟨decodesTo_of_encode hrange (ofNat_encodeIncDec 1#1 d hrange), ?_, decArith_overflow_iff _ hhi⟩
  rw [← decArith_carry]
  exact completes_of_retireArith (exec_dec d n s)

end Sys2Proof.Machine
end

section
/-! PROOFS. The shifts (43_shift.md, R160 to R167): their words, their values as arithmetic, ASL as an addition, and the
chained shifts of a pair. -/

namespace Sys2Proof

/-! ## The word of format SHIFT as a number (R85) -/

theorem ofNat_encodeShift (op : BitVec 4) (d b : Reg) :
    BitVec.ofNat 16 (0x3000 + 16 * op.toNat + 256 * d.val + b.val) = encodeShift op d (regBits b) := by
  rw [encodeShift, ← ofNat_word4, toNat_regBits, toNat_regBits, BitVec.toNat_ofNat 3 4]
  congr 1
  omega

end Sys2Proof

namespace Sys2Proof.Machine

/-! ## The two ways to end -/

/-- A one-bit shift takes c from the bit shifted out and keeps v and carry-block (R160). -/
theorem completes_of_retireShift {i : Instr} {s : State} {d : Reg} {r : Word} {out : Bool}
    (h : exec i s = .next (s.retireShift d r out)) :
    Completes i s d r { cb := s.flags.cb, c := out, v := s.flags.v, z := r == 0#16, s := r.getLsbD 15 }
      (s.pc + 1#16) :=
  completes_of_retire h

/-- An eight-bit shift takes s and z from its value and keeps the other flags (R160). -/
theorem completes_of_retireShift8 {i : Instr} {s : State} {d : Reg} {r : Word}
    (h : exec i s = .next (s.retireShift8 d r)) :
    Completes i s d r { s.flags with z := r == 0#16, s := r.getLsbD 15 } (s.pc + 1#16) :=
  completes_of_retire h

theorem exec_lsl (d b : Reg) (s : State) :
    exec (.lsl d b) s =
      .next (s.retireShift d (shiftLeftValue (s.readReg b) s.flags.carryIn) ((s.readReg b).getLsbD 15)) := rfl

theorem exec_lsr (d b : Reg) (s : State) :
    exec (.lsr d b) s =
      .next (s.retireShift d (shiftRightValue (s.readReg b) s.flags.carryIn) ((s.readReg b).getLsbD 0)) := rfl

theorem exec_lsl8 (d b : Reg) (s : State) :
    exec (.lsl8 d b) s = .next (s.retireShift8 d (shiftLeft8Value (s.readReg b))) := rfl

theorem exec_lsr8 (d b : Reg) (s : State) :
    exec (.lsr8 d b) s = .next (s.retireShift8 d (shiftRight8Value (s.readReg b))) := rfl

theorem exec_asr (d b : Reg) (s : State) :
    exec (.asr d b) s =
      .next (s.retireShift d (arithShiftRightValue (s.readReg b)) ((s.readReg b).getLsbD 0)) := rfl

/-! ## Single bits of a word, as comparisons -/

theorem bit0_eq_decide (x : Word) : x.getLsbD 0 = decide (x.toNat % 2 = 1) := by
  rw [BitVec.getLsbD, Nat.testBit_zero]

theorem bit14_eq_decide (x : Word) : x.getLsbD 14 = decide (16384 ≤ x.toNat % 32768) := by
  rw [BitVec.getLsbD, Nat.testBit_eq_decide_div_mod_eq, decide_eq_decide]
  omega

/-! ## The values as words of numbers -/

theorem shiftLeftValue_eq_ofNat (x : Word) (cin : Bool) :
    shiftLeftValue x cin = BitVec.ofNat 16 (2 * x.toNat + cin.toNat) :=
  BitVec.eq_of_toNat_eq (shiftLeftValue_toNat x cin)

theorem shiftRightValue_eq_ofNat (x : Word) (cin : Bool) :
    shiftRightValue x cin = BitVec.ofNat 16 (x.toNat / 2 + 32768 * cin.toNat) := by
  rw [← shiftRightValue_toNat, BitVec.ofNat_toNat, BitVec.setWidth_eq]

theorem shiftLeft8Value_eq_ofNat (x : Word) : shiftLeft8Value x = BitVec.ofNat 16 (256 * x.toNat) :=
  BitVec.eq_of_toNat_eq (shiftLeft8Value_toNat x)

theorem shiftRight8Value_eq_ofNat (x : Word) : shiftRight8Value x = BitVec.ofNat 16 (x.toNat / 256) := by
  rw [← shiftRight8Value_toNat, BitVec.ofNat_toNat, BitVec.setWidth_eq]

/-- ASR's value is half of the signed number, rounded down (R166, D28). -/
theorem arithShiftRightValue_toInt (x : Word) : (arithShiftRightValue x).toInt = x.toInt / 2 := by
  have hx := x.isLt
  rw [signed_value, signed_value, arithShiftRightValue_toNat]
  split <;> split <;> omega

theorem arithShiftRightValue_eq_ofInt (x : Word) : arithShiftRightValue x = BitVec.ofInt 16 (x.toInt / 2) := by
  rw [← arithShiftRightValue_toInt, BitVec.ofInt_toInt]

/-! ## The sign bits of the values -/

/-- Shifted left, bit 14 becomes the sign (R161). -/
theorem shiftLeftValue_bit15 (x : Word) (cin : Bool) : (shiftLeftValue x cin).getLsbD 15 = x.getLsbD 14 := by
  have hcin := cin.toNat_le
  rw [bit15_eq_decide, bit14_eq_decide, shiftLeftValue_toNat, decide_eq_decide]
  omega

/-- The high byte of LSR8's value is zero (R164). -/
theorem shiftRight8Value_bit15 (x : Word) : (shiftRight8Value x).getLsbD 15 = false := by
  have hx := x.isLt
  rw [bit15_eq_decide, shiftRight8Value_toNat, decide_eq_false_iff_not]
  omega

/-- ASR keeps the sign (R166). -/
theorem arithShiftRightValue_bit15 (x : Word) : (arithShiftRightValue x).getLsbD 15 = x.getLsbD 15 := by
  have hx := x.isLt
  rw [bit15_eq_decide, bit15_eq_decide, arithShiftRightValue_toNat, decide_eq_decide]
  omega

/-! ## The logical and the eight-bit shifts -/

/-- Settles O12: both end by `retireShift`; the incoming carry, the values and the bits shifted out as numbers. -/
theorem logicalShiftsMoveOneBit : Obligations.LogicalShiftsMoveOneBit := by
  intro s d b
  simp only [← Flags.carryIn_toNat, ← shiftLeftValue_eq_ofNat, ← shiftRightValue_eq_ofNat,
    ← bit15_eq_decide (s.readReg b), ← bit0_eq_decide]
  exact ⟨decodesTo_of_encode rfl (ofNat_encodeShift 0x0#4 d b), completes_of_retireShift (exec_lsl d b s),
    decodesTo_of_encode rfl (ofNat_encodeShift 0x1#4 d b), completes_of_retireShift (exec_lsr d b s)⟩

/-- Settles O13: both end by `retireShift8`; LSR8's value has a zero high byte (`shiftRight8Value_bit15`). -/
theorem byteShiftsMoveEightBits : Obligations.ByteShiftsMoveEightBits := by
  intro s d b
  refine ⟨decodesTo_of_encode rfl (ofNat_encodeShift 0x2#4 d b), ?_,
    decodesTo_of_encode rfl (ofNat_encodeShift 0x3#4 d b), ?_⟩
  · rw [← shiftLeft8Value_eq_ofNat]
    exact completes_of_retireShift8 (exec_lsl8 d b s)
  · rw [← shiftRight8Value_eq_ofNat, ← shiftRight8Value_bit15 (s.readReg b)]
    exact completes_of_retireShift8 (exec_lsr8 d b s)

/-! ## The arithmetic shifts -/

/-- Doubling a signed number leaves 16 bits exactly when its two highest bits differ (R165). -/
theorem double_overflow_iff (x : Word) :
    2 * x.toInt < -32768 ∨ 32767 < 2 * x.toInt ↔ x.getLsbD 15 ≠ x.getLsbD 14 := by
  have hx := x.isLt
  rw [bit15_eq_decide, bit14_eq_decide, signed_value, ne_eq, decide_eq_decide]
  split <;> omega

theorem aslOverflow_eq_true_iff (x : Word) : aslOverflow x = true ↔ x.getLsbD 15 ≠ x.getLsbD 14 :=
  bne_iff_ne

theorem aslOverflow_eq_decide (x : Word) :
    aslOverflow x = decide (2 * x.toInt < -32768 ∨ 32767 < 2 * x.toInt) := by
  rw [Bool.eq_iff_iff, aslOverflow_eq_true_iff, decide_eq_true_iff, double_overflow_iff]

/-- Settles O14: ASL ends by `retireArith` with `aslArith`, whose overflow is that of doubling the signed number. -/
theorem aslDoublesAndReportsOverflow : Obligations.AslDoublesAndReportsOverflow := by
  intro s d b
  refine ⟨decodesTo_of_encode rfl (ofNat_encodeShift 0x4#4 d b), ?_, double_overflow_iff _⟩
  rw [← Flags.carryIn_toNat, ← shiftLeftValue_eq_ofNat, ← bit15_eq_decide, ← aslOverflow_eq_decide]
  exact completes_of_retireArith (exec_asl d b s)

theorem addArith_self_value (x : Word) (cin : Bool) : (addArith x x cin).value = shiftLeftValue x cin := by
  rw [shiftLeftValue_eq_ofNat, Nat.two_mul]
  rfl

/-- The sum with itself overflows when its sign, the old bit 14, is not the old sign (R134, R165). -/
theorem addArith_self_overflow (x : Word) (cin : Bool) : (addArith x x cin).overflow = aslOverflow x := by
  have hsum := addArith_overflow_iff x x cin
  rw [addArith_self_value, shiftLeftValue_bit15, eq_self, true_and, ← addArith_self_value x cin] at hsum
  rw [Bool.eq_iff_iff, aslOverflow_eq_true_iff, ne_comm, ← hsum]
  exact decide_eq_true_iff

theorem addArith_self_carry (x : Word) (cin : Bool) : (addArith x x cin).carry = x.getLsbD 15 := by
  have hcin := cin.toNat_le
  rw [bit15_eq_decide]
  exact decide_eq_decide.mpr (by omega)

theorem aslArith_eq_addArith (x : Word) (cin : Bool) : aslArith x cin = addArith x x cin := by
  rw [aslArith, ← addArith_self_value, ← addArith_self_overflow x cin, ← addArith_self_carry x cin]

/-- Settles O15: both end by `retireArith`, with the same result. -/
theorem aslAgreesWithAddOfItself : Obligations.AslAgreesWithAddOfItself := by
  intro s d b
  rw [exec_asl, exec_add, aslArith_eq_addArith]

/-- Settles O16: ASR ends by `retireShift`; its value is the half rounded down, with the old sign. -/
theorem asrHalvesTheSignedValue : Obligations.AsrHalvesTheSignedValue := by
  intro s d b
  simp only [← arithShiftRightValue_eq_ofInt, ← bit0_eq_decide, ← arithShiftRightValue_bit15 (s.readReg b)]
  exact ⟨decodesTo_of_encode rfl (ofNat_encodeShift 0x5#4 d b), completes_of_retireShift (exec_asr d b s),
    arithShiftRightValue_toInt _⟩

/-! ## A pair shifted by way of the carry (R167) -/

/-- The high word shifted left takes bit 15 of the low word as its bit 0. -/
theorem shiftLeft_pair (h l : Word) :
    shiftLeftValue h (l.getLsbD 15) ++ shiftLeftValue l false = (h ++ l : BitVec 32) + (h ++ l) := by
  have hl := l.isLt
  have hbit : (l.getLsbD 15).toNat = l.toNat / 32768 % 2 := Nat.toNat_testBit l.toNat 15
  apply BitVec.eq_of_toNat_eq
  rw [BitVec.toNat_add, toNat_append_add, toNat_append_add, shiftLeftValue_toNat, shiftLeftValue_toNat, hbit,
    Bool.toNat_false]
  omega

/-- The low word shifted right takes bit 0 of the high word as its bit 15. -/
theorem shiftRightValue_bit0_toNat (h l : Word) :
    (shiftRightValue l (h.getLsbD 0)).toNat = l.toNat / 2 + 32768 * (h.toNat % 2) := by
  have hbit : (h.getLsbD 0).toNat = h.toNat / 1 % 2 := Nat.toNat_testBit h.toNat 0
  rw [shiftRightValue_toNat, hbit, Nat.div_one]

theorem shiftRight_pair (h l : Word) :
    (shiftRightValue h false ++ shiftRightValue l (h.getLsbD 0) : BitVec 32) =
      BitVec.ofNat 32 ((h ++ l : BitVec 32).toNat / 2) := by
  have hh := h.isLt
  have hl := l.isLt
  apply BitVec.eq_of_toNat_eq
  rw [BitVec.toNat_ofNat, toNat_append_add, toNat_append_add, shiftRightValue_bit0_toNat, shiftRightValue_toNat,
    Bool.toNat_false]
  omega

/-- The signed number of a pair: the high word signed, the low word unsigned. -/
theorem toInt_pair (h l : Word) : (h ++ l : BitVec 32).toInt = h.toInt * 65536 + l.toNat := by
  have hh := h.isLt
  have hl := l.isLt
  rw [BitVec.toInt_eq_toNat_cond, signed_value, toNat_append_add]
  split <;> split <;> omega

theorem arithShiftRight_pair (h l : Word) :
    (arithShiftRightValue h ++ shiftRightValue l (h.getLsbD 0) : BitVec 32) =
      BitVec.ofInt 32 ((h ++ l : BitVec 32).toInt / 2) := by
  have hh := h.isLt
  have hl := l.isLt
  apply BitVec.eq_of_toInt_eq
  rw [toInt_pair, arithShiftRightValue_toInt, shiftRightValue_bit0_toNat, toInt_pair, signed_value, BitVec.toInt_ofInt,
    Int.bmod_eq_of_le] <;> split <;> omega

/-! ## The sequences -/

/-- COFF clears c and keeps the other flags (R183, R290). -/
theorem exec_coff (s : State) : exec coffInstr s = .next (s.withFlags { s.flags with c := false }).advance := by
  have hflags : flagsOff s.flags 0x08#5 = { s.flags with c := false } := by
    rw [flagsOff_eq]
    simp
  rw [← hflags]
  rfl

/-- With carry-block off the incoming carry is c (R33). -/
theorem Flags.carryIn_of_unblocked {f : Flags} (h : f.cb = false) : f.carryIn = f.c := by
  rw [Flags.carryIn, h, Bool.not_false, Bool.and_true]

/-- Two instructions that each write a register of their own leave both values; the second may rely on its register and on
the flags that the first leaves. -/
theorem execAll_pair {i j : Instr} {s : State} {d e : Reg} {v w : Word} {f : Flags} {p : Word} (hd : d ≠ 0) (he : e ≠ 0)
    (hne : e ≠ d) (hi : Completes i s d v f p)
    (hj : ∀ t : State, t.readReg e = s.readReg e → t.flags = f → ∃ g q, Completes j t e w g q) :
    ∃ u, execAll [i, j] s = .next u ∧ u.readReg d = v ∧ u.readReg e = w := by
  obtain ⟨t, hexec, hregs, hflags, -⟩ := hi
  obtain ⟨g, q, u, hexec', hregs', -⟩ := hj t (hregs.readReg_other hne) hflags
  refine ⟨u, ?_, ?_, hregs'.readReg_same he⟩
  · rw [execAll_cons_of_next hexec, execAll_singleton_of_next hexec']
  · rw [hregs'.readReg_other hne.symm, hregs.readReg_same hd]

/-- With carry-block off, LSL shifts in the c it finds (R161). -/
theorem lsl_completes_of_unblocked {t : State} {f : Flags} {x : Word} (e : Reg) (hcb : f.cb = false)
    (hx : t.readReg e = x) (hf : t.flags = f) : ∃ g q, Completes (.lsl e e) t e (shiftLeftValue x f.c) g q := by
  rw [← hx, ← Flags.carryIn_of_unblocked hcb, ← hf]
  exact ⟨_, _, completes_of_retireShift (exec_lsl e e t)⟩

/-- With carry-block off, LSR shifts in the c it finds (R162). -/
theorem lsr_completes_of_unblocked {t : State} {f : Flags} {x : Word} (e : Reg) (hcb : f.cb = false)
    (hx : t.readReg e = x) (hf : t.flags = f) : ∃ g q, Completes (.lsr e e) t e (shiftRightValue x f.c) g q := by
  rw [← hx, ← Flags.carryIn_of_unblocked hcb, ← hf]
  exact ⟨_, _, completes_of_retireShift (exec_lsr e e t)⟩

/-- COFF, LSL, LSL: the low word first, with no incoming carry (R167). -/
theorem execAll_doubleWord {s : State} {h l : Reg} (hh : h ≠ 0) (hl : l ≠ 0) (hne : h ≠ l) (hcb : s.flags.cb = false) :
    ∃ t, execAll (doubleWord h l) s = .next t ∧ t.readReg l = shiftLeftValue (s.readReg l) false ∧
      t.readReg h = shiftLeftValue (s.readReg h) ((s.readReg l).getLsbD 15) := by
  rw [doubleWord, execAll_cons_of_next (exec_coff s)]
  exact execAll_pair hl hh hne (completes_of_retireShift (exec_lsl l l _)) fun _ =>
    lsl_completes_of_unblocked h hcb

/-- COFF, LSR, LSR: the high word first, with no incoming carry (R167). -/
theorem execAll_halveWord {s : State} {h l : Reg} (hh : h ≠ 0) (hl : l ≠ 0) (hne : h ≠ l) (hcb : s.flags.cb = false) :
    ∃ t, execAll (halveWord h l) s = .next t ∧ t.readReg h = shiftRightValue (s.readReg h) false ∧
      t.readReg l = shiftRightValue (s.readReg l) ((s.readReg h).getLsbD 0) := by
  rw [halveWord, execAll_cons_of_next (exec_coff s)]
  exact execAll_pair hh hl hne.symm (completes_of_retireShift (exec_lsr h h _)) fun _ =>
    lsr_completes_of_unblocked l hcb

/-- ASR, LSR: the high word first; ASR reads no carry, so no COFF (R166, R167). -/
theorem execAll_halveSignedWord {s : State} {h l : Reg} (hh : h ≠ 0) (hl : l ≠ 0) (hne : h ≠ l)
    (hcb : s.flags.cb = false) :
    ∃ t, execAll (halveSignedWord h l) s = .next t ∧ t.readReg h = arithShiftRightValue (s.readReg h) ∧
      t.readReg l = shiftRightValue (s.readReg l) ((s.readReg h).getLsbD 0) :=
  execAll_pair hh hl hne.symm (completes_of_retireShift (exec_asr h h s)) fun _ => lsr_completes_of_unblocked l hcb

/-- Settles O17: each sequence leaves two shifted words (`execAll_doubleWord` and its like), and together they are the
shifted pair (`shiftLeft_pair` and its like). -/
theorem shiftPairsChainThroughCarry : Obligations.ShiftPairsChainThroughCarry := by
  intro s h l hh hl hne hcb
  obtain ⟨t, hdouble, htl, hth⟩ := execAll_doubleWord hh hl hne hcb
  obtain ⟨u, hhalve, huh, hul⟩ := execAll_halveWord hh hl hne hcb
  obtain ⟨v, hsigned, hvh, hvl⟩ := execAll_halveSignedWord hh hl hne hcb
  refine ⟨⟨t, hdouble, ?_⟩, ⟨u, hhalve, ?_⟩, ⟨v, hsigned, ?_⟩⟩
  · rw [hth, htl, shiftLeft_pair]
  · rw [huh, hul, shiftRight_pair]
  · rw [hvh, hvl, arithShiftRight_pair]

end Sys2Proof.Machine
end

section
/-! PROOFS. The flag instructions (44_flags.md, R180 to R186): their words, the flags as a word and back, and the sets of
flags an immediate names. -/

namespace Sys2Proof

/-! ## The words of formats SAVEF and FLAGOP as numbers (R86, R87) -/

theorem ofNat_encodeSavef (d : Reg) (low : BitVec 4) :
    BitVec.ofNat 16 (0x3070 + low.toNat + 256 * d.val) = encodeShift 0x7#4 d low := by
  rw [encodeShift, ← ofNat_word4, toNat_regBits, BitVec.toNat_ofNat 3 4, BitVec.toNat_ofNat 7 4]
  congr 1
  omega

/-- The second digit: the flag operation and the high bit of the immediate. -/
theorem toNat_flagOp_digit (op : BitVec 3) (v : BitVec 5) :
    (op ++ v.extractLsb' 4 1 : BitVec 4).toNat = 2 * op.toNat + v.toNat / 16 := by
  have hv := v.isLt
  rw [toNat_append_add, BitVec.extractLsb'_toNat, Nat.shiftRight_eq_div_pow]
  omega

theorem ofNat_encodeFlagOp (op : BitVec 3) (v : BitVec 5) :
    BitVec.ofNat 16 (0x3060 + 512 * op.toNat + 256 * (v.toNat / 16) + v.toNat % 16) = encodeFlagOp op v := by
  rw [encodeFlagOp, ← ofNat_word4, toNat_flagOp_digit, BitVec.extractLsb'_toNat, BitVec.toNat_ofNat 3 4,
    BitVec.toNat_ofNat 6 4]
  congr 1
  omega

end Sys2Proof

namespace Sys2Proof.Machine

/-! ## The instructions -/

theorem exec_savef (d : Reg) (s : State) :
    exec (.savef d) s = .next (s.retire d (flagsWord s.flags) s.flags) := rfl

theorem exec_rstrf (d : Reg) (s : State) :
    exec (.rstrf d) s = .next (s.withFlags (wordFlags (s.readReg d))).advance := rfl

theorem exec_fon (v : BitVec 5) (s : State) :
    exec (.fon v) s = .next (s.withFlags (flagsOn s.flags v)).advance := rfl

theorem exec_foff (v : BitVec 5) (s : State) :
    exec (.foff v) s = .next (s.withFlags (flagsOff s.flags v)).advance := rfl

theorem exec_fset4 (v : BitVec 5) (s : State) :
    exec (.fset4 v) s = .next (s.withFlags (flagsSet4 s.flags v)).advance := rfl

/-! ## The flags as a word and back (R180, R181) -/

/-- Each flag counts as the bit it has in F (R26). -/
theorem Flags.toBits_toNat (f : Flags) :
    f.toBits.toNat = 16 * f.cb.toNat + 8 * f.c.toNat + 4 * f.v.toNat + 2 * f.z.toNat + f.s.toNat := by
  simp only [Flags.toBits, toNat_append_add, BitVec.toNat_ofBool]
  omega

theorem flagsWord_eq_ofNat (f : Flags) :
    flagsWord f =
      BitVec.ofNat 16 (16 * f.cb.toNat + 8 * f.c.toNat + 4 * f.v.toNat + 2 * f.z.toNat + f.s.toNat) := by
  rw [flagsWord, ← Flags.toBits_toNat, BitVec.ofNat_toNat]

/-- Bits 15:5 of the word do not matter (D9). -/
theorem wordFlags_eq (w : Word) :
    wordFlags w =
      { cb := w.getLsbD 4, c := w.getLsbD 3, v := w.getLsbD 2, z := w.getLsbD 1, s := w.getLsbD 0 } := by
  simp [wordFlags, Flags.ofBits]

/-- Settles O18: SAVEF ends by `retire` with the flags as a word, RSTRF changes the flags alone. -/
theorem savefAndRstrfMoveTheFlags : Obligations.SavefAndRstrfMoveTheFlags := by
  intro s d
  dsimp only
  rw [← flagsWord_eq_ofNat, ← wordFlags_eq]
  exact ⟨decodesTo_of_encode rfl (ofNat_encodeSavef d 0x0#4), completes_of_retire (exec_savef d s),
    decodesTo_of_encode rfl (ofNat_encodeSavef d 0x8#4), completes_of_flags (exec_rstrf d s)⟩

/-- The word 0, which R0 always gives, has no flag on (R181). -/
theorem wordFlags_zero : wordFlags 0#16 = { cb := false, c := false, v := false, z := false, s := false } := rfl

/-- Settles O19: the register holds `flagsWord` of the flags before, which reads back as them (`wordFlags_flagsWord`);
R0 discards it and reads as 0. -/
theorem rstrfRestoresWhatSavefSaved : Obligations.RstrfRestoresWhatSavefSaved := by
  intro s d
  refine ⟨_, exec_savef d s, fun u hu => ⟨_, exec_rstrf d u, ?_⟩⟩
  rw [State.advance_flags, State.withFlags_flags]
  by_cases hd : d = 0
  · rw [if_pos hd, hd, State.readReg_zero, wordFlags_zero]
  · rw [if_neg hd, hu, State.readReg_retire, if_pos ⟨rfl, hd⟩, wordFlags_flagsWord]

/-! ## The sets of flags that an immediate names (R182 to R186) -/

/-- FON flag by flag, as a choice by the immediate's bit (R182, R186). -/
theorem flagsOn_eq_ite (f : Flags) (v : BitVec 5) :
    flagsOn f v =
      { cb := if v.getLsbD 4 then true else f.cb, c := if v.getLsbD 3 then true else f.c,
        v := if v.getLsbD 2 then true else f.v, z := if v.getLsbD 1 then true else f.z,
        s := if v.getLsbD 0 then true else f.s } := by
  simp only [flagsOn_eq, Bool.if_true_left, Bool.decide_eq_true, Bool.or_comm]

/-- FOFF flag by flag, as a choice by the immediate's bit (R183, R186). -/
theorem flagsOff_eq_ite (f : Flags) (v : BitVec 5) :
    flagsOff f v =
      { cb := if v.getLsbD 4 then false else f.cb, c := if v.getLsbD 3 then false else f.c,
        v := if v.getLsbD 2 then false else f.v, z := if v.getLsbD 1 then false else f.z,
        s := if v.getLsbD 0 then false else f.s } := by
  simp only [flagsOff_eq, Bool.if_false_left, Bool.decide_eq_true, Bool.and_comm]

/-- Settles O20: each of the two is a word of format FLAGOP and changes the flags alone, by `flagsOn` and `flagsOff`. -/
theorem fonAndFoffSwitchNamedFlags : Obligations.FonAndFoffSwitchNamedFlags := by
  intro s v
  dsimp only
  rw [← flagsOn_eq_ite, ← flagsOff_eq_ite]
  exact ⟨decodesTo_of_encode rfl (ofNat_encodeFlagOp 0b000#3 v), completes_of_flags (exec_fon v s),
    decodesTo_of_encode rfl (ofNat_encodeFlagOp 0b100#3 v), completes_of_flags (exec_foff v s)⟩

/-- Settles O21: FSET5 changes the flags alone, to `Flags.ofBits` of the immediate. -/
theorem fset5SetsAllFiveFlags : Obligations.Fset5SetsAllFiveFlags := by
  intro s v
  exact ⟨decodesTo_of_encode rfl (ofNat_encodeFlagOp 0b010#3 v), completes_of_flags (exec_fset5 v s)⟩

/-- Settles O22: FSET4 changes the flags alone, to `flagsSet4`, which keeps carry-block (D18). -/
theorem fset4KeepsCarryBlock : Obligations.Fset4KeepsCarryBlock := by
  intro s v
  exact ⟨decodesTo_of_encode rfl (ofNat_encodeFlagOp 0b110#3 v), completes_of_flags (exec_fset4 v s)⟩

end Sys2Proof.Machine
end

section
/-! PROOFS. LOAD and STORE (45_load_store.md, R200 to R203): their words, the value loaded with the flags that describe it,
and the one cell stored to with the frame around it. -/

namespace Sys2Proof

/-! ## The word of format MEM as a number (R88) -/

/-- The first digit: the mark 01, the bit of STORE and the high bit of the offset. -/
theorem toNat_mem_digit (isStore : BitVec 1) (e : BitVec 5) :
    (0b01#2 ++ isStore ++ e.extractLsb' 4 1 : BitVec 4).toNat = 4 + 2 * isStore.toNat + e.toNat / 16 := by
  have he := e.isLt
  simp only [toNat_append_add, BitVec.extractLsb'_toNat, BitVec.toNat_ofNat]
  omega

theorem ofNat_encodeMem (isStore : BitVec 1) (d : Reg) {o : Nat} (b : Reg) (h : offsetInRange o = true) :
    BitVec.ofNat 16 (0x4000 + 8192 * isStore.toNat + 4096 * (o / 16) + 256 * d.val + 16 * (o % 16) + b.val) =
      encodeMem isStore d o b := by
  dsimp only [encodeMem]
  rw [← ofNat_word4, toNat_mem_digit, toNat_regBits, toNat_regBits, BitVec.extractLsb'_toNat, toNat_ofNat_offset h]
  congr 1
  omega

theorem offsetInRange_of_le {o : Nat} (h : o ≤ 31) : offsetInRange o = true :=
  decide_eq_true h

end Sys2Proof

namespace Sys2Proof.Machine

/-! ## LOAD -/

theorem exec_load (d : Reg) (o : Nat) (b : Reg) (s : State) :
    exec (.load d o b) s =
      .next (s.retire d (s.readData (s.effectiveAddress o b))
        (s.flags.withSignZero (s.readData (s.effectiveAddress o b)))) := rfl

/-- Settles O23: LOAD is a word of format MEM and ends by `retire` with the cell at the effective address, s and z by
`withSignZero`. -/
theorem loadReadsTheAddressedCell : Obligations.LoadReadsTheAddressedCell := by
  intro s d b o ho
  have hrange := offsetInRange_of_le ho
  exact ⟨decodesTo_of_encode hrange (ofNat_encodeMem 0#1 d b hrange), completes_of_retire (exec_load d o b s)⟩

/-! ## STORE -/

/-- Outside data memory, STORE's next state differs in the PC alone (R202). -/
theorem State.advance_writeData_frame (s : State) (a v : Word) :
    SameRegisters s (s.writeData a v).advance ∧ (s.writeData a v).advance.flags = s.flags ∧
      (s.writeData a v).advance.pc = s.pc + 1#16 ∧ (s.writeData a v).advance.imem = s.imem ∧
      (s.writeData a v).advance.draws = s.draws :=
  ⟨fun r => s.readReg_writeData a v r, s.writeData_flags a v, (s.writeData a v).advance_pc, s.writeData_imem a v,
    s.writeData_draws a v⟩

/-- Settles O24: STORE is a word of format MEM and ends by one write to data memory
(`State.readData_advance_writeData`), which leaves the rest (`State.advance_writeData_frame`). -/
theorem storeWritesTheAddressedCellOnly : Obligations.StoreWritesTheAddressedCellOnly := by
  intro s d b o ho
  have hrange := offsetInRange_of_le ho
  dsimp only
  rw [State.effectiveAddress_eq]
  refine ⟨rfl, decodesTo_of_encode hrange (ofNat_encodeMem 1#1 d b hrange), _, exec_store d o b s, ?_,
    fun a ha => ?_, s.advance_writeData_frame _ _⟩
  · rw [State.readData_advance_writeData, if_pos rfl]
  · rw [State.readData_advance_writeData, if_neg ha]

end Sys2Proof.Machine
end

section
/-! PROOFS. The branches (46_branch.md, R210 to R245): their words, their conditions flag by flag, what the conditions say
after CMP, and the relative branches HALT and NOP. -/

namespace Sys2Proof

/-! ## The words of formats BREG and BREL as numbers (R89, R90) -/

theorem ofNat_encodeBranchRegister (cond : BitVec 4) (b : Reg) :
    BitVec.ofNat 16 (0x1000 + 256 * cond.toNat + b.val) = encodeBranchRegister cond b := by
  rw [encodeBranchRegister, ← ofNat_word4, toNat_regBits]
  rfl

theorem toNat_ofInt_distance (o : Int) : (BitVec.ofInt 8 o).toNat = Machine.distanceField o :=
  BitVec.toNat_ofInt o

theorem ofNat_encodeBranchRelative (cond : BitVec 4) (o : Int) :
    BitVec.ofNat 16 (256 * cond.toNat + Machine.distanceField o) = encodeBranchRelative cond o := by
  rw [encodeBranchRelative, ← ofNat_word4, ← toNat_ofInt_distance, toNat_byte_digits, BitVec.toNat_ofNat 0 4]
  congr 1
  omega

theorem distanceInRange_of_bounds {o : Int} (hlow : -128 ≤ o) (hhigh : o ≤ 127) : distanceInRange o = true := by
  simp only [distanceInRange, hlow, hhigh, decide_true, Bool.and_true]

end Sys2Proof

namespace Sys2Proof.Machine

/-! ## The word of a branch by its condition (R210) -/

theorem decodesTo_registerBranch (cond : Cond) (b : Reg) :
    DecodesTo (0x1000 + 256 * cond.code.toNat + b.val) (cond.registerBranch b) := by
  apply decodesTo_of_encode (wellFormed_registerBranch cond b)
  rw [encode_registerBranch, ofNat_encodeBranchRegister]

theorem decodesTo_relativeBranch (cond : Cond) {o : Int} (h : distanceInRange o = true) :
    DecodesTo (256 * cond.code.toNat + distanceField o) (cond.relativeBranch o) := by
  apply decodesTo_of_encode ((wellFormed_relativeBranch cond o).trans h)
  rw [encode_relativeBranch, ofNat_encodeBranchRelative]

/-! ## The conditions as the rules write them (R210, R214 to R219) -/

theorem condTaken_ge (f : Flags) : condTaken .ge f = (f.s == f.v) :=
  Bool.not_not (f.s == f.v)

theorem condTaken_g (f : Flags) : condTaken .g f = (f.s == f.v && !f.z) := by
  rw [← condTaken_ge]
  exact Bool.not_or ..

theorem condTaken_ug (f : Flags) : condTaken .ug f = (f.c && !f.z) := by
  simp [condTaken]

/-! ## The branches -/

/-- Settles O28: the codes of seven conditions in format BREG, and `registerBranch_completes` for each. -/
theorem registerBranchesOnOrder : Obligations.RegisterBranchesOnOrder := by
  intro s b
  dsimp only
  rw [← condTaken_g, ← condTaken_ge, ← condTaken_ug]
  have word (cond : Cond) := decodesTo_registerBranch cond b
  have completes (cond : Cond) := registerBranch_completes cond b s
  exact ⟨word .always, completes .always, word .l, completes .l, word .ge, completes .ge, word .le, completes .le,
    word .g, completes .g, word .ule, completes .ule, word .ug, completes .ug⟩

/-- Settles O29: the codes of eight conditions in format BREG, and `registerBranch_completes` for each. -/
theorem registerBranchesOnOneFlag : Obligations.RegisterBranchesOnOneFlag := by
  intro s b
  have word (cond : Cond) := decodesTo_registerBranch cond b
  have completes (cond : Cond) := registerBranch_completes cond b s
  exact ⟨word .z, completes .z, word .nz, completes .nz, word .c, completes .c, word .nc, completes .nc,
    word .s, completes .s, word .ns, completes .ns, word .v, completes .v, word .nv, completes .nv⟩

/-- Settles O30: the codes of seven conditions in format BREL, and `relativeBranch_completes` for each. -/
theorem relativeBranchesOnOrder : Obligations.RelativeBranchesOnOrder := by
  intro s o hlow hhigh
  dsimp only
  rw [← condTaken_g, ← condTaken_ge, ← condTaken_ug]
  have word (cond : Cond) := decodesTo_relativeBranch cond (distanceInRange_of_bounds hlow hhigh)
  have completes (cond : Cond) := relativeBranch_completes cond o s
  exact ⟨word .always, completes .always, word .l, completes .l, word .ge, completes .ge, word .le, completes .le,
    word .g, completes .g, word .ule, completes .ule, word .ug, completes .ug⟩

/-- Settles O31: the codes of eight conditions in format BREL, and `relativeBranch_completes` for each. -/
theorem relativeBranchesOnOneFlag : Obligations.RelativeBranchesOnOneFlag := by
  intro s o hlow hhigh
  have word (cond : Cond) := decodesTo_relativeBranch cond (distanceInRange_of_bounds hlow hhigh)
  have completes (cond : Cond) := relativeBranch_completes cond o s
  exact ⟨word .z, completes .z, word .nz, completes .nz, word .c, completes .c, word .nc, completes .nc,
    word .s, completes .s, word .ns, completes .ns, word .v, completes .v, word .nv, completes .nv⟩

/-! ## The flags of a difference without a borrow (R135, R286) -/

theorem subArith_noBorrow_value (x y : Word) : (subArith x y false).value = x - y := by
  apply BitVec.eq_of_toNat_eq
  simp only [subArith, BitVec.toNat_ofInt, BitVec.toNat_sub, Bool.toNat_false]
  omega

/-- Without an incoming borrow, c is the unsigned order (R135, C2). -/
theorem subArith_noBorrow_carry (x y : Word) : (subArith x y false).carry = decide (y.toNat ≤ x.toNat) :=
  decide_eq_decide.mpr (by simp)

theorem subArith_noBorrow_overflow (x y : Word) :
    (subArith x y false).overflow = decide (x.toInt - y.toInt ≠ (x - y).toInt) := by
  rw [← subArith_noBorrow_value]
  exact decide_eq_decide.mpr (by simp [subArith])

theorem sub_beq_zero (x y : Word) : (x - y == 0#16) = decide (x = y) := by
  rw [beq_eq_decide, decide_eq_decide]
  exact sub_eq_zero

/-- The sign bit of the wrapped difference is wrong exactly when the signed difference does not fit (R210). -/
theorem sign_xor_overflow (x y : Word) :
    ((x - y).getLsbD 15 ^^ decide (x.toInt - y.toInt ≠ (x - y).toInt)) = decide (x.toInt < y.toInt) := by
  have hwrap : (x - y).toInt = (x.toInt - y.toInt).bmod 65536 := BitVec.toInt_sub
  rw [Int.bmod_def] at hwrap
  have hx := x.toInt_lt
  have hx' := x.le_toInt
  have hy := y.toInt_lt
  have hy' := y.le_toInt
  rw [← BitVec.msb_eq_getLsbD_last (x - y), BitVec.msb_eq_toInt]
  by_cases hfits : x.toInt - y.toInt = (x - y).toInt
  · rw [decide_eq_false (not_not_intro hfits), Bool.xor_false, decide_eq_decide]
    omega
  · rw [decide_eq_true hfits, Bool.xor_true, ← decide_not, decide_eq_decide]
    omega

/-- The flags say how x compares with y, as those of their exact difference do (R244); carry-block has no part in it. -/
structure Compares (f : Flags) (x y : Word) : Prop where
  zero : f.z = decide (x = y)
  carry : f.c = decide (y.toNat ≤ x.toNat)
  sign : f.s = (x - y).getLsbD 15
  overflow : f.v = decide (x.toInt - y.toInt ≠ (x - y).toInt)
  less : (f.s ^^ f.v) = decide (x.toInt < y.toInt)

theorem compares_withArith_subArith (f : Flags) (x y : Word) : Compares (f.withArith (subArith x y false)) x y where
  zero := by rw [Flags.withArith_z, subArith_noBorrow_value, sub_beq_zero]
  carry := by rw [Flags.withArith_c, subArith_noBorrow_carry]
  sign := by rw [Flags.withArith_s, subArith_noBorrow_value]
  overflow := by rw [Flags.withArith_v, subArith_noBorrow_overflow]
  less := by
    rw [Flags.withArith_s, Flags.withArith_v, subArith_noBorrow_value, subArith_noBorrow_overflow, sign_xor_overflow]

/-! ## The conditions on such flags (R210, R244) -/

/-- The conditions on c and z say the unsigned order. -/
theorem Compares.unsigned {f : Flags} {x y : Word} (h : Compares f x y) :
    condTaken .c f = decide (y.toNat ≤ x.toNat) ∧ condTaken .nc f = decide (x.toNat < y.toNat) ∧
      condTaken .ule f = decide (x.toNat ≤ y.toNat) ∧ condTaken .ug f = decide (y.toNat < x.toNat) := by
  have hequal : x = y ↔ x.toNat = y.toNat := BitVec.toNat_inj.symm
  refine ⟨h.carry, ?_, ?_, ?_⟩
  · rw [condTaken, h.carry, ← decide_not, decide_eq_decide]
    omega
  · rw [condTaken, h.carry, h.zero, ← decide_not, ← Bool.decide_or, decide_eq_decide, hequal]
    omega
  · rw [condTaken_ug, h.carry, h.zero, ← decide_not, ← Bool.decide_and, decide_eq_decide, hequal]
    omega

/-- The conditions on s, v and z say the signed order. -/
theorem Compares.signed {f : Flags} {x y : Word} (h : Compares f x y) :
    condTaken .l f = decide (x.toInt < y.toInt) ∧ condTaken .ge f = decide (y.toInt ≤ x.toInt) ∧
      condTaken .le f = decide (x.toInt ≤ y.toInt) ∧ condTaken .g f = decide (y.toInt < x.toInt) := by
  have hequal : x = y ↔ x.toInt = y.toInt := BitVec.toInt_inj.symm
  refine ⟨h.less, ?_, ?_, ?_⟩
  · rw [condTaken, h.less, ← decide_not, decide_eq_decide]
    omega
  · rw [condTaken, h.less, h.zero, ← Bool.decide_or, decide_eq_decide, hequal]
    omega
  · rw [condTaken, h.less, h.zero, ← Bool.decide_or, ← decide_not, decide_eq_decide, hequal]
    omega

/-- The conditions on one of z, s and v say what that flag says, and its complement. -/
theorem Compares.oneFlag {f : Flags} {x y : Word} (h : Compares f x y) :
    (condTaken .z f = decide (x = y) ∧ condTaken .nz f = decide (x ≠ y)) ∧
      (condTaken .s f = (x - y).getLsbD 15 ∧ condTaken .ns f = !(x - y).getLsbD 15) ∧
      (condTaken .v f = decide (x.toInt - y.toInt ≠ (x - y).toInt) ∧
        condTaken .nv f = decide (x.toInt - y.toInt = (x - y).toInt)) := by
  refine ⟨⟨h.zero, ?_⟩, ⟨h.sign, ?_⟩, ⟨h.overflow, ?_⟩⟩
  · rw [condTaken, h.zero, ← decide_not]
  · rw [condTaken, h.sign]
  · rw [condTaken, h.overflow, ← decide_not, decide_eq_decide, not_not]

/-- A write to R0 changes no register (R21). -/
theorem WritesOnly.sameRegisters {v : Word} {s t : State} (h : WritesOnly 0 v s t) : SameRegisters s t := by
  intro r
  rw [h r, if_neg fun ⟨hzero, hne⟩ => hne hzero]

/-- What CMP leaves besides the flags that it sets (R286). -/
theorem cmp_frame (s : State) (r : ArithResult) :
    let t := (s.retireArith 0 r).advance
    SameRegisters s t ∧ SameMemories s t ∧ t.pc = s.pc + 2#16 ∧ t.flags = s.flags.withArith r := by
  obtain ⟨hregs, hflags, hpc, hmem⟩ := s.retireArith_spec 0 r
  refine ⟨hregs.sameRegisters, hmem, ?_, hflags⟩
  rw [State.advance_pc, hpc, BitVec.add_assoc]
  rfl

/-- Settles O32: CMP leaves the flags of the difference (`execAll_cmp`), which compare the operands
(`compares_withArith_subArith`); then the conditions by the flags they read. -/
theorem conditionsAfterCompare : Obligations.ConditionsAfterCompare := by
  intro s a b
  refine ⟨_, execAll_cmp a b s, ?_⟩
  dsimp only
  obtain ⟨hregs, hmem, hpc, hflags⟩ := cmp_frame s (subArith (s.readReg a) (s.readReg b) false)
  rw [hflags]
  have hcompares := compares_withArith_subArith s.flags (s.readReg a) (s.readReg b)
  obtain ⟨hc, hnc, hule, hug⟩ := hcompares.unsigned
  obtain ⟨hl, hge, hle, hg⟩ := hcompares.signed
  obtain ⟨⟨hz, hnz⟩, ⟨hs, hns⟩, hv, hnv⟩ := hcompares.oneFlag
  exact ⟨hregs, hmem, hpc, Flags.withArith_cb .., hz, hnz, hc, hnc, hule, hug, hl, hge, hle, hg, hs, hns, hv, hnv⟩

/-! ## HALT and NOP (R243) -/

/-- Where a word is fetched and stands for an instruction, the step is that instruction's (R405). -/
theorem step_of_decode_ok {s : State} {w : Word} {i : Instr} (hf : s.fetch = some w) (hw : decode w = .ok i) :
    step s = exec i s := by
  simp only [step, hf, hw]

theorem exec_brr (o : Int) (s : State) : exec (.brr o) s = .next (s.jump (s.relativeTarget o)) := rfl

theorem State.relativeTarget_zero (s : State) : s.relativeTarget 0 = s.pc := by
  rw [State.relativeTarget, Int.add_zero, BitVec.ofInt_natCast, BitVec.ofNat_toNat, BitVec.setWidth_eq]

theorem State.relativeTarget_one (s : State) : s.relativeTarget 1 = s.nextPc := by
  rw [State.relativeTarget, BitVec.ofInt_add, BitVec.ofInt_natCast, BitVec.ofNat_toNat, BitVec.setWidth_eq]
  rfl

/-- HALT is the relative branch to itself. -/
theorem step_of_fetch_halt {s : State} (hf : s.fetch = some 0x0000#16) : step s = .next s := by
  have hw : decode 0x0000#16 = .ok (.brr 0) := rfl
  rw [step_of_decode_ok hf hw, exec_brr, State.relativeTarget_zero]
  rfl

/-- A run ends at once where the PC addresses a HALT word, whatever steps are left (R406, D17). -/
theorem run_of_fetch_halt {s : State} (hf : s.fetch = some 0x0000#16) (k : Nat) : run k s = .halted s := by
  have hhalt : s.atHalt = true := by
    rw [State.atHalt, hf]
    rfl
  cases k with
  | zero => rw [run, if_pos hhalt]
  | succ k => rw [run, if_pos hhalt]

/-- A state that steps to itself reaches no other. -/
theorem Reaches.eq_of_step_self {s t : State} (hs : step s = .next s) (h : Reaches s t) : t = s := by
  induction h with
  | refl => rfl
  | tail _ hstep ih =>
    subst ih
    rw [hs] at hstep
    cases hstep
    rfl

/-- Settles O33: the step at HALT stays (`step_of_fetch_halt`), so nothing else is reached, and the run is at its end. -/
theorem haltEndsTheRun : Obligations.HaltEndsTheRun :=
  fun _ hf => ⟨step_of_fetch_halt hf, run_of_fetch_halt hf, fun _ => Reaches.eq_of_step_self (step_of_fetch_halt hf)⟩

/-- Settles O34: NOP is the relative branch to the next address. -/
theorem nopOnlyAdvances : Obligations.NopOnlyAdvances := by
  intro s hf
  have hw : decode 0x0001#16 = .ok (.brr 1) := rfl
  rw [step_of_decode_ok hf hw, exec_brr, State.relativeTarget_one]
  rfl

end Sys2Proof.Machine
end

section
/-! PROOFS. The canonical form of the state (10_state.md, 20_memory.md; log 1): every step keeps it, and the states at
the start have it. -/

namespace Sys2Proof.Machine

/-- The canonical form, part by part. -/
theorem State.wf_iff (s : State) : s.wf = true ↔ s.dmem.wf = true ∧ s.imem.wf = true ∧ s.regs[0] = 0#16 := by
  simp [State.wf, and_assoc]

/-- No way to end writes the slot of R0 (R21). -/
theorem Effect.slot_zero {s t : State} (h : Effect s t) : t.regs[0] = s.regs[0] := by
  cases h with
  | retire d v f =>
    rw [State.retire_regs]
    exact s.writeReg_slot_zero d v
  | drawn d x y => exact s.writeReg_slot_zero d (mulHighValue x y)
  | flags f => rfl
  | store a v => rfl
  | branch taken p => rfl
  | exchange a b h =>
    unfold State.exchange
    rw [State.writeReg_slot_zero, State.writeReg_slot_zero, State.writeReg_slot_zero, State.jump_regs]

/-- The draw of a high-word MUL is no write to data memory (R136). -/
theorem State.mulHigh_dmem (s : State) (d : Reg) (x y : Word) : (s.mulHigh d x y).dmem = s.dmem := by
  simp [State.mulHigh, State.retireArith]

/-- The one way to end that writes data memory is a write of one cell, which keeps the canonical form. -/
theorem Effect.dmem_wf {s t : State} (h : Effect s t) (hs : s.dmem.wf = true) : t.dmem.wf = true := by
  cases h with
  | retire d v f =>
    rw [State.retire_dmem]
    exact hs
  | drawn d x y =>
    rw [State.mulHigh_dmem]
    exact hs
  | flags f => exact hs
  | store a v => exact Memory.wf_write s.dmem a v hs
  | branch taken p => exact hs
  | exchange a b h =>
    rw [State.exchange_dmem]
    exact hs

/-- Every way an instruction can end keeps the canonical form. -/
theorem Effect.wf {s t : State} (h : Effect s t) (hs : s.wf = true) : t.wf = true := by
  rw [State.wf_iff] at hs ⊢
  obtain ⟨hdmem, himem, hslot⟩ := hs
  refine ⟨h.dmem_wf hdmem, ?_, h.slot_zero.trans hslot⟩
  rw [h.imem]
  exact himem

/-- Settles O48: a next state of a step is one of the ways an instruction can end (`exec_effect`). -/
theorem stepKeepsTheStateCanonical : Obligations.StepKeepsTheStateCanonical := by
  intro s t hs h
  obtain ⟨w, i, -, -, hexec⟩ := step_next h
  exact (exec_effect i s t hexec).wf hs

/-- Settles O49: at the start both memories list nothing and every register slot is 0. -/
theorem startStatesAreCanonical : Obligations.StartStatesAreCanonical := by
  have start_wf (f : Flags) : (State.start f).wf = true := by
    rw [State.wf_iff, State.start_dmem, State.start_imem, State.start_regs]
    exact ⟨Memory.wf_nil, Memory.wf_nil, rfl⟩
  exact ⟨start_wf resetFlags, start_wf⟩

end Sys2Proof.Machine
end

section
/-! PROOFS. The stops (60_exceptions.md, 70_reset_and_hazards.md, R370, R371, R405): which instruction stops with which
fault in which states, and the step around it. -/

namespace Sys2Proof.Machine

/-! ## The instructions that stop -/

/-- The undefined mode of MUL, flag by flag (R137). -/
theorem mulMode_eq_undefined_iff (f : Flags) :
    mulMode f = .undefined ↔ f.cb = false ∧ (f.c = true ∨ f.v = true ∨ f.z = true) := by
  obtain ⟨cb, c, v, z, s⟩ := f
  revert cb c v z s
  decide

theorem exec_mul_fault_iff (d a b : Reg) (s : State) (r : Fault) :
    exec (.mul d a b) s = .fault r ↔
      s.flags.cb = false ∧ (s.flags.c = true ∨ s.flags.v = true ∨ s.flags.z = true) ∧ r = .mulUndefinedFlags := by
  rw [← and_assoc, ← mulMode_eq_undefined_iff, exec_mul, execMul]
  cases mulMode s.flags <;> simp [eq_comm (b := r)]

theorem exec_call (a b : Reg) (s : State) : exec (.call a b) s = callOrReturn a b s := rfl

theorem exec_ret (a b : Reg) (s : State) : exec (.ret a b) s = callOrReturn a b s := rfl

theorem callOrReturn_fault_iff (a b : Reg) (s : State) (r : Fault) :
    callOrReturn a b s = .fault r ↔ ((a = b ∧ a ≠ 0) ∨ b = 14) ∧ r = .callRegisterCollision := by
  rw [← callCollides_iff, callOrReturn]
  cases callCollides a b <;> simp [eq_comm (b := r)]

theorem exec_swi (n : Nat) (s : State) : exec (.swi n) s = .fault .interruptOpcode := rfl

theorem exec_rti (s : State) : exec .rti s = .fault .interruptOpcode := rfl

/-- No instruction is refused (`exec_stop`). -/
theorem exec_ne_refused (i : Instr) (s : State) (q : Refusal) : exec i s ≠ .refused q := by
  obtain ⟨t, h⟩ | h | h | h := exec_stop i s
  all_goals
    rw [h]
    exact nofun

/-- The cases in which an instruction stops, each with its fault: the part of R371 that comes after the decoding. -/
def StopsWith (i : Instr) (s : State) (r : Fault) : Prop :=
  (∃ d a b, i = .mul d a b ∧ s.flags.cb = false ∧ (s.flags.c = true ∨ s.flags.v = true ∨ s.flags.z = true) ∧
    r = .mulUndefinedFlags) ∨
  (∃ a b, (i = .call a b ∨ i = .ret a b) ∧ ((a = b ∧ a ≠ 0) ∨ b = 14) ∧ r = .callRegisterCollision) ∨
  ((i = .rti ∨ ∃ n, i = .swi n) ∧ r = .interruptOpcode)

/-- Only MUL, CALL, RETURN, SWI and RTI can stop, and each exactly in its cases (R137, R262, R263, R264). -/
theorem exec_fault_iff (i : Instr) (s : State) (r : Fault) : exec i s = .fault r ↔ StopsWith i s r := by
  unfold StopsWith
  cases i
  case mul d a b => simp [exec_mul_fault_iff]
  case call a b => simp [exec_call, callOrReturn_fault_iff]
  case ret a b => simp [exec_ret, callOrReturn_fault_iff]
  case swi n => simp [exec_swi, eq_comm (b := r)]
  case rti => simp [exec_rti, eq_comm (b := r)]
  all_goals exact iff_of_false nofun (by simp)

/-! ## The step -/

/-- Settles O46: the word of instruction memory at the PC is the one fetched (`State.fetch_eq`). -/
theorem stepRunsTheDecodedInstruction : Obligations.StepRunsTheDecodedInstruction :=
  fun _ _ _ hf hw => step_of_decode_ok hf hw

/-- Settles O45, by what is fetched and what it decodes to; then `exec_fault_iff`. -/
theorem completeListOfStops : Obligations.CompleteListOfStops := by
  intro s r
  cases hf : s.fetch with
  | none => simp [step_of_fetch_none hf, eq_comm (b := r)]
  | some w =>
    cases hw : decode w with
    | error u => simp [step_of_decode_error hf hw, hw, eq_comm (b := r)]
    | ok i =>
      rw [step_of_decode_ok hf hw]
      refine ⟨?_, exec_ne_refused i s⟩
      rw [exec_fault_iff]
      simp [hw, StopsWith]

end Sys2Proof.Machine
end

section
/-! PROOFS. CALL, RETURN and the interrupt codes (47_call_return_interrupt.md, R260 to R264): their words, the exchange of
PC and FP with two registers, and where there is none. -/

namespace Sys2Proof

/-- A word of group 0010 as a number (R91, R92). -/
theorem ofNat_group2 (code : BitVec 4) (a b : Reg) :
    BitVec.ofNat 16 (0x2000 + 256 * code.toNat + 16 * a.val + b.val) =
      word4 0x2#4 code (regBits a) (regBits b) := by
  rw [← ofNat_word4, toNat_regBits, toNat_regBits]
  rfl

theorem interruptInRange_of_le {i : Nat} (h : i ≤ 15) : interruptInRange i = true :=
  decide_eq_true h

theorem ofNat_encodeSwi {i : Nat} (h : i ≤ 15) : BitVec.ofNat 16 (0x2200 + i) = encode (.swi i) := by
  rw [encode, ← ofNat_word4, toNat_ofNat_interrupt (interruptInRange_of_le h)]
  rfl

end Sys2Proof

namespace Sys2Proof.Machine

/-! ## The exchange -/

theorem callOrReturn_of_not_collides {a b : Reg} (hab : a = b → a = 0) (hb : b ≠ 14) (s : State) :
    callOrReturn a b s = .next (s.exchange a b) := by
  apply (callOrReturn_spec a b s).2
  rintro (⟨heq, hne⟩ | hfp)
  · exact hne (hab heq)
  · exact hb hfp

theorem callOrReturn_of_collides {a b : Reg} (h : (a = b ∧ a ≠ 0) ∨ b = 14) (s : State) :
    callOrReturn a b s = .fault .callRegisterCollision :=
  (callOrReturn_spec a b s).1 h

/-- Register a receives the old FP (R260). -/
theorem State.readReg_exchange_a {a : Reg} (ha : a ≠ 0) (b : Reg) (s : State) :
    (s.exchange a b).readReg a = s.readReg 14 := by
  rw [State.readReg_exchange, if_neg ha, if_pos rfl]

/-- Register b receives the next address (R260). -/
theorem State.readReg_exchange_b {a b : Reg} (hb : b ≠ 0) (hab : a ≠ b) (hfp : b ≠ 14) (s : State) :
    (s.exchange a b).readReg b = s.pc + 1#16 := by
  rw [State.readReg_exchange, if_neg hb, if_neg hab.symm, if_neg hfp, if_pos rfl]

/-- FP receives register a; where that is FP itself it is unchanged (R260). -/
theorem State.readReg_exchange_fp (a b : Reg) (s : State) : (s.exchange a b).readReg 14 = s.readReg a := by
  rw [State.readReg_exchange, if_neg (by decide)]
  by_cases ha : (14 : Reg) = a
  · rw [if_pos ha, ← ha]
  · rw [if_neg ha, if_pos rfl]

/-- The exchange leaves every other register (R260). -/
theorem State.readReg_exchange_other {a b r : Reg} (ha : r ≠ a) (hb : r ≠ b) (hfp : r ≠ 14) (s : State) :
    (s.exchange a b).readReg r = s.readReg r := by
  rw [State.readReg_exchange, if_neg ha, if_neg hfp, if_neg hb]
  split
  next hzero => rw [hzero, State.readReg_zero]
  next => rfl

/-- Settles O36: the words, then the exchange register by register. -/
theorem callAndReturnExchange : Obligations.CallAndReturnExchange := by
  intro s a b hab hb
  have hnext := callOrReturn_of_not_collides hab hb s
  have hne (hb0 : b ≠ 0) : a ≠ b := fun heq => hb0 (heq ▸ hab heq)
  exact ⟨decodesTo_of_encode rfl (ofNat_group2 0#4 a b), decodesTo_of_encode rfl (ofNat_group2 1#4 a b),
    s.exchange a b, hnext, hnext, s.exchange_pc a b, fun hb0 => s.readReg_exchange_b hb0 (hne hb0) hb,
    fun _ => s.readReg_exchange_fp a b, fun ha => s.readReg_exchange_a ha b, State.readReg_zero _,
    fun _ hra hrb hfp => s.readReg_exchange_other hra hrb hfp, s.exchange_flags a b,
    ⟨State.readData_congr (s.exchange_dmem a b), s.exchange_imem a b⟩, s.exchange_draws a b⟩

/-- Settles O38: the second exchange moves back what the first left in the two registers. -/
theorem returnUndoesCall : Obligations.ReturnUndoesCall := by
  intro s a b ha hb hab hfp
  have hnext := callOrReturn_of_not_collides (fun heq => absurd heq hab) hfp
  refine ⟨s.exchange a b, hnext s, fun u hua hub => ⟨u.exchange a b, hnext u, ?_, ?_, ?_, ?_⟩⟩
  · rw [State.exchange_pc, hub, State.readReg_exchange_b hb hab hfp]
  · rw [State.readReg_exchange_fp, hua, State.readReg_exchange_a ha]
  · exact u.readReg_exchange_b hb hab hfp
  · exact u.readReg_exchange_a ha b

/-! ## The stops -/

/-- Settles O37: the collisions, and their number by counting the pairs. -/
theorem collidingCallsHaveNoResult : Obligations.CollidingCallsHaveNoResult :=
  ⟨fun s _ _ h => ⟨callOrReturn_of_collides h s, callOrReturn_of_collides h s⟩, by decide⟩

/-- Settles O39: the words, and the stop of each code. -/
theorem interruptCodesStopWithAFault : Obligations.InterruptCodesStopWithAFault :=
  fun s i hi => ⟨decodesTo_of_encode (interruptInRange_of_le hi) (ofNat_encodeSwi hi), exec_swi i s, rfl, exec_rti s⟩

end Sys2Proof.Machine
end

section
/-! PROOFS. The assembler's expansions (48_assembler.md, R280 to R299): what SET, a branch to a label, MOVE, NEG, NOT and
FLAGS compute. -/

namespace Sys2Proof.Machine

/-! ## Sequences -/

theorem execAll_append_of_next {l : List Instr} {s t : State} (h : execAll l s = .next t) (rest : List Instr) :
    execAll (l ++ rest) s = execAll rest t := by
  induction l generalizing s with
  | nil =>
    cases h
    rfl
  | cons i l ih =>
    cases hi : exec i s with
    | next u =>
      rw [execAll_cons_of_next hi] at h
      rw [List.cons_append, execAll_cons_of_next hi, ih h]
    | fault r => simp [execAll, hi] at h
    | refused q => simp [execAll, hi] at h

/-! ## SET (R283) -/

theorem extractLsb'_low_byte (v : Word) : v.extractLsb' 0 8 = BitVec.ofNat 8 v.toNat := rfl

theorem extractLsb'_high_byte (v : Word) : v.extractLsb' 8 8 = BitVec.ofNat 8 (v.toNat / 256) := by
  apply BitVec.eq_of_toNat_eq
  rw [BitVec.extractLsb'_toNat, Nat.shiftRight_eq_div_pow, BitVec.toNat_ofNat]

/-- SET is the sequence of `setloSethiSequenceLoadsAnyWord`, its bytes written as slices. -/
theorem execAll_setWords (d : Reg) (v : Word) (s : State) :
    ∃ t, execAll (setWords d v) s = .next t ∧ WritesOnly d v s t ∧ t.flags = s.flags ∧ t.pc = s.pc + 2#16 ∧
      SameMemories s t := by
  rw [setWords, extractLsb'_low_byte, extractLsb'_high_byte]
  exact setloSethiSequenceLoadsAnyWord s d v

/-! ## A register-mode branch to a label (R297, R299) -/

theorem WritesOnly.trans_sameRegisters {d : Reg} {v : Word} {s t u : State} (hst : WritesOnly d v s t)
    (htu : SameRegisters t u) : WritesOnly d v s u :=
  fun r => (htu r).trans (hst r)

/-- Settles O58: SET leaves the label in R11 and the flags as they were, and the branch goes where R11 says
(`registerBranch_completes`). -/
theorem branchToLabelReachesTheLabel : Obligations.BranchToLabelReachesTheLabel := by
  intro s cond p
  obtain ⟨t, hset, hregs, hflags, hpc, hmem⟩ := execAll_setWords 11 p s
  obtain ⟨u, hbranch, hregs', hflags', hpc', hmem', -⟩ := registerBranch_completes cond 11 t
  refine ⟨u, ?_, ?_, hregs.trans_sameRegisters hregs', hflags'.trans hflags, hmem.trans hmem'⟩
  · rw [execAll_append_of_next hset, execAll_singleton_of_next hbranch]
  · rw [hpc', hflags, hregs.readReg_same (by decide), hpc, BitVec.add_assoc]
    rfl

/-! ## MOVE (R285) -/

theorem execAll_move (s : State) (d b : Reg) :
    ∃ t, execAll [.or d b 0] s = .next t ∧ WritesOnly d (s.readReg b) s t := by
  obtain ⟨-, -, -, ⟨t, hexec, hregs, -⟩, -⟩ := bitwiseOperationsComplete s d b 0
  rw [State.readReg_zero, BitVec.or_zero] at hregs
  exact ⟨t, execAll_singleton_of_next hexec, hregs⟩

/-! ## CON and COFF (R289, R290) -/

/-- The state after CON or COFF: c as given, the PC advanced, all else kept (R289, R290). -/
def State.giveCarry (s : State) (c : Bool) : State := (s.withFlags { s.flags with c := c }).advance

@[simp] theorem State.giveCarry_flags (s : State) (c : Bool) : (s.giveCarry c).flags = { s.flags with c := c } := rfl

@[simp] theorem State.readReg_giveCarry (s : State) (c : Bool) (r : Reg) :
    (s.giveCarry c).readReg r = s.readReg r := rfl

/-- CON sets c and keeps the other flags (R182, R289). -/
theorem exec_con (s : State) : exec conInstr s = .next (s.giveCarry true) := by
  unfold State.giveCarry
  rw [← flagsOn_carry]
  rfl

/-- COFF clears c and keeps the other flags (R290). -/
theorem exec_coff_giveCarry (s : State) : exec coffInstr s = .next (s.giveCarry false) := exec_coff s

/-! ## NEG (R287) -/

theorem Flags.borrowIn_of_carry {f : Flags} (h : f.c = true) : f.borrowIn = false := by
  rw [Flags.borrowIn, h]
  rfl

/-- CON and SUB: the difference without a borrow, whatever carry-block says (R135, R286, R287). -/
theorem execAll_con_sub (s : State) (d a b : Reg) :
    execAll [conInstr, .sub d a b] s =
      .next ((s.giveCarry true).retireArith d
        (subArith (s.readReg a) (s.readReg b) false)) := by
  rw [execAll_cons_of_next (exec_con s), execAll_singleton_of_next (exec_sub ..), State.giveCarry_flags,
    Flags.borrowIn_of_carry rfl, State.readReg_giveCarry, State.readReg_giveCarry]

/-- Only the most negative number has no negative among the words (R287). -/
theorem neg_overflow_iff (x : Word) : (0#16).toInt - x.toInt ≠ (0#16 - x).toInt ↔ x = 0x8000#16 := by
  have hx := x.isLt
  rw [← BitVec.toNat_inj, signed_value, signed_value, signed_value, BitVec.toNat_sub]
  simp only [BitVec.toNat_ofNat]
  split <;> split <;> omega

theorem execAll_neg (s : State) (d b : Reg) :
    ∃ t, execAll (negInstrs d b) s = .next t ∧ WritesOnly d (-s.readReg b) s t ∧
      t.flags.v = decide (s.readReg b = 0x8000#16) ∧ t.flags.c = decide (s.readReg b = 0#16) := by
  refine ⟨_, execAll_con_sub s d 0 b, ?_⟩
  obtain ⟨hregs, hflags, -⟩ := State.retireArith_spec (s.giveCarry true) d
    (subArith (s.readReg 0) (s.readReg b) false)
  rw [hflags, Flags.withArith_v, Flags.withArith_c, subArith_noBorrow_overflow, subArith_noBorrow_carry,
    State.readReg_zero, decide_eq_decide.mpr (neg_overflow_iff _)]
  rw [subArith_noBorrow_value, State.readReg_zero, BitVec.zero_sub] at hregs
  refine ⟨hregs, rfl, decide_eq_decide.mpr ?_⟩
  rw [← BitVec.toNat_inj, BitVec.toNat_ofNat]
  omega

/-! ## NOT (R288) -/

theorem execAll_not (s : State) (d b : Reg) :
    ∃ t, execAll (notInstrs d b) s = .next t ∧
      (d ≠ 0 → t.readReg d = if b = 11 then 0#16 else ~~~s.readReg b) ∧
      (d ≠ 11 → t.readReg 11 = 0xFFFF#16) ∧ (∀ r : Reg, r ≠ d → r ≠ 11 → t.readReg r = s.readReg r) := by
  obtain ⟨t, hset, hregs, -⟩ := execAll_setWords Reg.rt 0xFFFF#16 s
  obtain ⟨-, -, -, -, -, u, hxor, hregs', -⟩ := bitwiseOperationsComplete t d Reg.rt b
  have hones : t.readReg Reg.rt = 0xFFFF#16 := hregs.readReg_same (by decide)
  refine ⟨u, ?_, fun hd => ?_, fun hd => (hregs'.readReg_other hd.symm).trans hones, fun r hrd hr => ?_⟩
  · rw [notInstrs, execAll_append_of_next hset, execAll_singleton_of_next hxor]
  · rw [hregs'.readReg_same hd, hones]
    split
    next hb => rw [hb, hones, BitVec.xor_self]
    next hb =>
      rw [hregs.readReg_other hb]
      exact BitVec.allOnes_xor
  · exact (hregs'.readReg_other hrd).trans (hregs.readReg_other hr)

/-! ## FLAGS (R293) -/

theorem Flags.carryIn_of_noCarry {f : Flags} (h : f.c = false) : f.carryIn = false := by
  rw [Flags.carryIn, h]
  rfl

/-- COFF and ADD: the sum without a carry, whatever carry-block says (R134, R293). -/
theorem execAll_coff_add (s : State) (d a b : Reg) :
    execAll [coffInstr, .add d a b] s =
      .next ((s.giveCarry false).retireArith d
        (addArith (s.readReg a) (s.readReg b) false)) := by
  rw [execAll_cons_of_next (exec_coff_giveCarry s), execAll_singleton_of_next (exec_add ..), State.giveCarry_flags,
    Flags.carryIn_of_noCarry rfl, State.readReg_giveCarry, State.readReg_giveCarry]

/-- Nothing added: the word itself, which needs neither a carry nor another sign. -/
theorem addArith_zero (x : Word) : addArith x 0#16 false = { value := x, overflow := false, carry := false } := by
  simp [addArith, x.isLt]

theorem execAll_flags (s : State) (b : Reg) :
    ∃ t, execAll (flagsInstrs b) s = .next t ∧ SameRegisters s t ∧
      t.flags = { cb := s.flags.cb, c := false, v := false, z := s.readReg b == 0#16,
                  s := (s.readReg b).getLsbD 15 } := by
  refine ⟨_, execAll_coff_add s 0 b 0, ?_⟩
  obtain ⟨hregs, hflags, -⟩ := State.retireArith_spec (s.giveCarry false) 0
    (addArith (s.readReg b) (s.readReg 0) false)
  refine ⟨hregs.sameRegisters, ?_⟩
  rw [hflags, State.readReg_zero, addArith_zero]
  rfl

/-- Settles O57: each expansion by its own lemma. -/
theorem pseudoOperationsCompute : Obligations.PseudoOperationsCompute :=
  fun s d b => ⟨execAll_move s d b, execAll_neg s d b, execAll_not s d b, execAll_flags s b⟩

end Sys2Proof.Machine
end

section
/-! PROOFS. The words that the assembler emits (48_assembler.md, R296, R318): as many as counted, each the word of an
instruction whose operands are in range. -/

namespace Sys2Proof.Machine

/-- The words are those of as many well-formed instructions. -/
def AreInstructionWords (n : Nat) (ws : List Word) : Prop :=
  ∃ is : List Instr, is.length = n ∧ (∀ i ∈ is, i.wellFormed = true) ∧ ws = is.map encode

theorem AreInstructionWords.length_eq {n : Nat} {ws : List Word} (h : AreInstructionWords n ws) : ws.length = n := by
  obtain ⟨is, hlen, -, rfl⟩ := h
  rw [List.length_map, hlen]

/-- The words of well-formed instructions decode (`decodeOfEncode`). -/
theorem AreInstructionWords.decode_ok {n : Nat} {ws : List Word} (h : AreInstructionWords n ws) :
    ∀ w ∈ ws, ∃ i, decode w = .ok i := by
  obtain ⟨is, -, hwf, rfl⟩ := h
  intro w hw
  obtain ⟨i, hi, rfl⟩ := List.mem_map.mp hw
  exact ⟨i, decodeOfEncode i (hwf i hi)⟩

theorem areInstructionWords_nil : AreInstructionWords 0 [] := ⟨[], rfl, nofun, rfl⟩

theorem areInstructionWords_singleton {i : Instr} (h : i.wellFormed = true) : AreInstructionWords 1 [encode i] :=
  ⟨[i], rfl, List.forall_mem_singleton.mpr h, rfl⟩

theorem setWords_wellFormed (d : Reg) (v : Word) : (setWords d v).all Instr.wellFormed = true := rfl

theorem areInstructionWords_map {n : Nat} {is : List Instr} (hlen : is.length = n)
    (h : is.all Instr.wellFormed = true) : AreInstructionWords n (is.map encode) :=
  ⟨is, hlen, List.all_eq_true.mp h, rfl⟩

/-! ## Operands in range (R282, D25) -/

theorem inField_ok {lo hi n m : Int} (h : inField lo hi n = .ok m) : lo ≤ m ∧ m ≤ hi := by
  unfold inField at h
  split at h <;> cases h
  assumption

theorem Value.inField_ok {names : List (Name × Int)} {lo hi m : Int} {v : Value} (h : v.inField names lo hi = .ok m) :
    lo ≤ m ∧ m ≤ hi := by
  unfold Value.inField at h
  split at h
  · exact Machine.inField_ok h
  · cases h

theorem relativeDistance_ok {names labels : List (Name × Int)} {position : Nat} {l : Name} {o : Int}
    (h : relativeDistance names labels position l = .ok o) : distanceInRange o = true := by
  unfold relativeDistance at h
  have hrange : -128 ≤ o ∧ o ≤ 127 := by
    split at h
    · exact inField_ok h
    · exact Value.inField_ok h
  exact distanceInRange_of_bounds hrange.1 hrange.2

/-- A value operand gives one word, of a well-formed instruction if the field's range is that of the operand. -/
theorem valueWord_ok {names : List (Name × Int)} {lo hi : Int} {v : Value} {build : Int → Instr} {ws : List Word}
    (h : valueWord names lo hi v build = .ok ws)
    (hbuild : ∀ n : Int, lo ≤ n → n ≤ hi → (build n).wellFormed = true) : AreInstructionWords 1 ws := by
  unfold valueWord at h
  split at h <;> cases h
  next hn => exact areInstructionWords_singleton (hbuild _ (Value.inField_ok hn).1 (Value.inField_ok hn).2)

theorem instrWord_ok {i : Instr} {ws : List Word} (h : instrWord i = .ok ws) : AreInstructionWords 1 ws := by
  unfold instrWord at h
  split at h <;> cases h
  next hwf => exact areInstructionWords_singleton hwf

/-! ## Statements -/

/-- Every statement but OPCODE assembles to instruction words, as many as the first pass counts (R296, R318). -/
theorem Stmt.words_areInstructionWords {values labels : List (Name × Int)} {position : Nat} {st : Stmt}
    {ws : List Word} (h : st.words values labels position = .ok ws) (hst : ∀ n, st ≠ .opcode n) :
    AreInstructionWords st.size ws := by
  cases st
  case opcode n => exact absurd rfl (hst n)
  case machine i => exact instrWord_ok h
  case setlo | sethi | fon | foff | fset5 | fset4 => exact valueWord_ok h fun _ _ _ => rfl
  case inc | dec => exact valueWord_ok h fun n _ _ => amountInRange_of_bounds (n := n.toNat) (by omega) (by omega)
  case load | store => exact valueWord_ok h fun n _ _ => offsetInRange_of_le (o := n.toNat) (by omega)
  case swi => exact valueWord_ok h fun n _ _ => decide_eq_true (p := n.toNat ≤ 15) (by omega)
  case relative cond o =>
    refine valueWord_ok h fun n hlow hhigh => ?_
    rw [wellFormed_relativeBranch, distanceInRange_of_bounds hlow hhigh]
  case relativeTo cond l =>
    rw [Stmt.words] at h
    split at h <;> cases h
    next ho =>
      apply areInstructionWords_singleton
      rw [wellFormed_relativeBranch, relativeDistance_ok ho]
  case branchTo cond l =>
    rw [Stmt.words] at h
    split at h <;> cases h
    refine areInstructionWords_map rfl ?_
    rw [List.all_append, setWords_wellFormed, List.all_cons, wellFormed_registerBranch]
    rfl
  case set | setrf | callTo =>
    rw [Stmt.words] at h
    split at h <;> cases h
    exact areInstructionWords_map rfl rfl
  case label | constant | dlabel | integer | lpString | dskip =>
    cases h
    exact areInstructionWords_nil
  case move | con | coff | cbon | ccboff | nop | halt =>
    cases h
    exact areInstructionWords_singleton rfl
  case cmp | shortCmp | neg | not | flags =>
    cases h
    exact areInstructionWords_map rfl rfl

/-- OPCODE puts the one word that it is given (R294). -/
theorem Stmt.words_opcode_length {values labels : List (Name × Int)} {position : Nat} {n : Value} {ws : List Word}
    (h : (Stmt.opcode n).words values labels position = .ok ws) : ws.length = 1 := by
  rw [Stmt.words] at h
  split at h <;> cases h
  rfl

/-- Settles O59: OPCODE by its own lemma, the other statements by the instructions whose words they are. -/
theorem assembledWordsAreCountedAndAssigned : Obligations.AssembledWordsAreCountedAndAssigned := by
  intro values labels position st ws h
  by_cases hst : ∀ n, st ≠ .opcode n
  · have hwords := Stmt.words_areInstructionWords h hst
    exact ⟨hwords.length_eq, fun _ => hwords.decode_ok⟩
  · refine ⟨?_, fun hno => absurd hno hst⟩
    obtain ⟨n, rfl⟩ : ∃ n, st = .opcode n := by simpa using hst
    exact Stmt.words_opcode_length h

end Sys2Proof.Machine
end

section
/-! PROOFS. Arithmetic on pairs of registers (49_conventions.md, R343): the carry and the borrow chain the two words. -/

namespace Sys2Proof.Machine

/-! ## The two words of a sum and of a difference -/

/-- The carry is worth 65536 above the value of a sum (R134). -/
theorem addArith_toNat (x y : Word) (cin : Bool) :
    (addArith x y cin).value.toNat + 65536 * (addArith x y cin).carry.toNat = x.toNat + y.toNat + cin.toNat := by
  have hx := x.isLt
  have hy := y.isLt
  have hcin := cin.toNat_le
  by_cases hcarry : 65536 ≤ x.toNat + y.toNat + cin.toNat
  · simp only [addArith, hcarry, BitVec.toNat_ofNat, decide_true, Bool.toNat_true]
    omega
  · simp only [addArith, hcarry, BitVec.toNat_ofNat, decide_false, Bool.toNat_false]
    omega

/-- The borrow, the absence of the carry, is worth 65536 below the value of a difference (R135, C2). -/
theorem subArith_toNat (x y : Word) (bin : Bool) :
    ((subArith x y bin).value.toNat : Int) - 65536 * (!(subArith x y bin).carry).toNat =
      x.toNat - y.toNat - bin.toNat := by
  have hx := x.isLt
  have hy := y.isLt
  have hbin := bin.toNat_le
  by_cases hcarry : 0 ≤ (x.toNat : Int) - y.toNat - bin.toNat
  · simp only [subArith, hcarry, BitVec.toNat_ofInt, decide_true, Bool.not_true, Bool.toNat_false]
    omega
  · simp only [subArith, hcarry, BitVec.toNat_ofInt, decide_false, Bool.not_false, Bool.toNat_true]
    omega

/-- The 32-bit sum word by word: the high words take the carry of the low ones (R343). -/
theorem addArith_pair (h l h' l' : Word) :
    (addArith h h' (addArith l l' false).carry).value ++ (addArith l l' false).value =
      (h ++ l : BitVec 32) + (h' ++ l') := by
  have hlow := addArith_toNat l l' false
  have hhigh := addArith_toNat h h' (addArith l l' false).carry
  have hlt := (addArith l l' false).value.isLt
  have hlt' := (addArith h h' (addArith l l' false).carry).value.isLt
  apply BitVec.eq_of_toNat_eq
  rw [BitVec.toNat_add, toNat_append_add, toNat_append_add, toNat_append_add]
  rw [Bool.toNat_false] at hlow
  omega

theorem addArith_pair_carry (h l h' l' : Word) :
    (addArith h h' (addArith l l' false).carry).carry =
      decide (2 ^ 32 ≤ (h ++ l : BitVec 32).toNat + (h' ++ l' : BitVec 32).toNat) := by
  have hlow := addArith_toNat l l' false
  have hlt := (addArith l l' false).value.isLt
  rw [toNat_append_add, toNat_append_add]
  rw [Bool.toNat_false] at hlow
  exact decide_eq_decide.mpr (by omega)

theorem addArith_pair_overflow (h l h' l' : Word) :
    (addArith h h' (addArith l l' false).carry).overflow =
      decide ((h ++ l : BitVec 32).toInt + (h' ++ l' : BitVec 32).toInt ≠
        ((h ++ l : BitVec 32) + (h' ++ l')).toInt) := by
  have hlow := addArith_toNat l l' false
  rw [← addArith_pair, toInt_pair, toInt_pair, toInt_pair]
  rw [Bool.toNat_false] at hlow
  refine decide_eq_decide.mpr (not_congr ?_)
  change _ = (addArith h h' (addArith l l' false).carry).value.toInt ↔ _
  omega

/-- The 32-bit difference word by word: the high words take the borrow of the low ones (R343). -/
theorem subArith_pair (h l h' l' : Word) :
    (subArith h h' (!(subArith l l' false).carry)).value ++ (subArith l l' false).value =
      (h ++ l : BitVec 32) - (h' ++ l') := by
  have hlow := subArith_toNat l l' false
  have hhigh := subArith_toNat h h' (!(subArith l l' false).carry)
  have hlt := (subArith l l' false).value.isLt
  have hlt' := (subArith h h' (!(subArith l l' false).carry)).value.isLt
  have hh' := h'.isLt
  have hl' := l'.isLt
  apply BitVec.eq_of_toNat_eq
  rw [BitVec.toNat_sub, toNat_append_add, toNat_append_add, toNat_append_add]
  rw [Bool.toNat_false] at hlow
  omega

theorem subArith_pair_carry (h l h' l' : Word) :
    (subArith h h' (!(subArith l l' false).carry)).carry =
      decide ((h' ++ l' : BitVec 32).toNat ≤ (h ++ l : BitVec 32).toNat) := by
  have hlow := subArith_toNat l l' false
  have hlt := (subArith l l' false).value.isLt
  rw [toNat_append_add, toNat_append_add]
  rw [Bool.toNat_false] at hlow
  exact decide_eq_decide.mpr (by omega)

theorem subArith_pair_overflow (h l h' l' : Word) :
    (subArith h h' (!(subArith l l' false).carry)).overflow =
      decide ((h ++ l : BitVec 32).toInt - (h' ++ l' : BitVec 32).toInt ≠
        ((h ++ l : BitVec 32) - (h' ++ l')).toInt) := by
  have hlow := subArith_toNat l l' false
  rw [← subArith_pair, toInt_pair, toInt_pair, toInt_pair]
  rw [Bool.toNat_false] at hlow
  refine decide_eq_decide.mpr (not_congr ?_)
  change _ = (subArith h h' (!(subArith l l' false).carry)).value.toInt ↔ _
  omega

/-! ## Two arithmetic instructions on registers of their own -/

/-- The registers dh and dl hold the values of two results, c and v are those of the high one, and every other register is
as before (R343). -/
structure LeavesPair (s : State) (dh dl : Reg) (high low : ArithResult) (t : State) : Prop where
  highWord : t.readReg dh = high.value
  lowWord : t.readReg dl = low.value
  carry : t.flags.c = high.carry
  overflow : t.flags.v = high.overflow
  others : ∀ r : Reg, r ≠ dh → r ≠ dl → t.readReg r = s.readReg r

/-- The second instruction keeps the register of the first, and the flags are the second's. -/
theorem leavesPair_retireArith (s : State) (c : Bool) {dh dl : Reg} (high low : ArithResult) (hdh : dh ≠ 0)
    (hdl : dl ≠ 0) (hne : dh ≠ dl) :
    LeavesPair s dh dl high low (((s.giveCarry c).retireArith dl low).retireArith dh high) := by
  obtain ⟨hregs, -⟩ := (s.giveCarry c).retireArith_spec dl low
  obtain ⟨hregs', hflags, -⟩ := ((s.giveCarry c).retireArith dl low).retireArith_spec dh high
  refine ⟨hregs'.readReg_same hdh, ?_, ?_, ?_, fun r hr hr' => ?_⟩
  · rw [hregs'.readReg_other hne.symm, hregs.readReg_same hdl]
  · rw [hflags, Flags.withArith_c]
  · rw [hflags, Flags.withArith_v]
  · rw [hregs'.readReg_other hr, hregs.readReg_other hr', State.readReg_giveCarry]

theorem Flags.borrowIn_of_unblocked {f : Flags} (h : f.cb = false) : f.borrowIn = !f.c := by
  rw [Flags.borrowIn, h, Bool.not_false, Bool.and_true]

/-- ADD after an ADD, with carry-block off: the carry of the first goes into the second (R134, R343). -/
theorem execAll_addDouble {s : State} {dh dl ah bh : Reg} (al bl : Reg) (hcb : s.flags.cb = false) (hdh : dh ≠ 0)
    (hdl : dl ≠ 0) (hne : dh ≠ dl) (hah : dl ≠ ah) (hbh : dl ≠ bh) :
    let low := addArith (s.readReg al) (s.readReg bl) false
    ∃ t, execAll (addDouble dh dl ah al bh bl) s = .next t ∧
      LeavesPair s dh dl (addArith (s.readReg ah) (s.readReg bh) low.carry) low t := by
  intro low
  obtain ⟨hregs, hflags, -⟩ := (s.giveCarry false).retireArith_spec dl low
  have hcarry : ((s.giveCarry false).retireArith dl low).flags.carryIn = low.carry := by
    rw [hflags]
    exact Flags.carryIn_of_unblocked hcb
  refine ⟨_, ?_, leavesPair_retireArith s false _ low hdh hdl hne⟩
  refine (execAll_append_of_next (execAll_coff_add s dl al bl) [.add dh ah bh]).trans ?_
  rw [execAll_singleton_of_next (exec_add ..), hcarry, hregs.readReg_other hah.symm, hregs.readReg_other hbh.symm,
    State.readReg_giveCarry, State.readReg_giveCarry]

/-- SUB after a SUB, with carry-block off: the borrow of the first goes into the second (R135, R343). -/
theorem execAll_subDouble {s : State} {dh dl ah bh : Reg} (al bl : Reg) (hcb : s.flags.cb = false) (hdh : dh ≠ 0)
    (hdl : dl ≠ 0) (hne : dh ≠ dl) (hah : dl ≠ ah) (hbh : dl ≠ bh) :
    let low := subArith (s.readReg al) (s.readReg bl) false
    ∃ t, execAll (subDouble dh dl ah al bh bl) s = .next t ∧
      LeavesPair s dh dl (subArith (s.readReg ah) (s.readReg bh) (!low.carry)) low t := by
  intro low
  obtain ⟨hregs, hflags, -⟩ := (s.giveCarry true).retireArith_spec dl low
  have hborrow : ((s.giveCarry true).retireArith dl low).flags.borrowIn = !low.carry := by
    rw [hflags]
    exact Flags.borrowIn_of_unblocked hcb
  refine ⟨_, ?_, leavesPair_retireArith s true _ low hdh hdl hne⟩
  refine (execAll_append_of_next (execAll_con_sub s dl al bl) [.sub dh ah bh]).trans ?_
  rw [execAll_singleton_of_next (exec_sub ..), hborrow, hregs.readReg_other hah.symm, hregs.readReg_other hbh.symm,
    State.readReg_giveCarry, State.readReg_giveCarry]

/-- Settles O56: the two words of each sequence (`execAll_addDouble`, `execAll_subDouble`), which make up the sum and the
difference of the pairs (`addArith_pair`, `subArith_pair`). -/
theorem doublePrecisionAddAndSubtract : Obligations.DoublePrecisionAddAndSubtract := by
  intro s dh dl ah al bh bl hcb hdh hdl hne hah hbh x y
  obtain ⟨t, hadd, hsum⟩ := execAll_addDouble al bl hcb hdh hdl hne hah hbh
  obtain ⟨u, hsub, hdiff⟩ := execAll_subDouble al bl hcb hdh hdl hne hah hbh
  refine ⟨⟨t, hadd, ?_, ?_, ?_, hsum.others⟩, ⟨u, hsub, ?_, ?_, ?_, hdiff.others⟩⟩
  · rw [hsum.highWord, hsum.lowWord, addArith_pair]
  · rw [hsum.carry, addArith_pair_carry]
  · rw [hsum.overflow, addArith_pair_overflow]
  · rw [hdiff.highWord, hdiff.lowWord, subArith_pair]
  · rw [hdiff.carry, subArith_pair_carry]
  · rw [hdiff.overflow, subArith_pair_overflow]

end Sys2Proof.Machine
end
